-- ==== Sys2Proof/Word.lean ====
section
/-! DEFINITION. The widths of the core: bytes, 16-bit words, 4-bit numbers, 12-bit addresses
(spec/00_scope.md R5, R9; spec/30_encoding.md R71). -/

namespace Sys2Proof

/-- An 8-bit value: a general register, a timer, a byte of memory, the immediate `nn` (R5, R71). -/
abbrev Byte := BitVec 8

/-- A 16-bit value: I, PC, a return address, an instruction word (R5). -/
abbrev Word := BitVec 16

/-- A register number 0 to 15: the fields `x` and `y` (R20, R71). -/
abbrev RegIdx := BitVec 4

/-- The 4-bit immediate `n`, the height of a sprite (R71). -/
abbrev Nibble := BitVec 4

/-- The 12-bit immediate `nnn`, an address (R71). -/
abbrev Addr12 := BitVec 12

/-- A logical key 0 to 15 (R217: the event port is 4 bits wide). -/
abbrev Key := BitVec 4

end Sys2Proof
end

