-- ==== Sys2Proof/Config.lean ====
section
/-! DEFINITION. What is fixed for a machine: the constants of spec/00_scope.md R5, the configuration
supplied at Reset (R6), and the one free value, the byte of the random source (R219). -/

namespace Sys2Proof

/-- What an UNKNOWN word does (spec/46_unknown.md R190). -/
inductive UnknownPolicy where
  | fault
  | skip
deriving DecidableEq, Repr

/-- What SKP and SKNP consult (spec/45_keypad_timers.md R175). -/
inductive KeySkipSource where
  | lastPressed
  | flags
deriving DecidableEq, Repr

/-- What ends a key wait (spec/40_cycle.md R92, R93). -/
inductive KeyWaitMode where
  | level
  | edge
deriving DecidableEq, Repr

/-- The configuration of spec/00_scope.md R6, read-only after Reset (spec/10_state.md R35). -/
structure Config where
  /-- Q_SHIFT_VY: SHR and SHL shift V[y] (true) or V[x] (false). -/
  qShiftVy : Bool
  /-- Q_LOGIC_VF_RESET: OR, AND and XOR reset VF to 0. -/
  qLogicVfReset : Bool
  /-- Q_MEM_INC_I: LD_MEM_VX and LD_VX_MEM add the transferred length to I. -/
  qMemIncI : Bool
  /-- Q_JUMP_VX: JP_OFF adds V[x] (true) or V0 (false). -/
  qJumpVx : Bool
  /-- Q_DRAW_WRAP: DRW wraps at a display edge (true) or clips (false). -/
  qDrawWrap : Bool
  /-- UNKNOWN_POLICY. -/
  unknownPolicy : UnknownPolicy
  /-- STACK_DEPTH, at least 1. -/
  stackDepth : Nat
  /-- FONT_BASE, an address with FONT_BASE + 80 at most 0x200. -/
  fontBase : Nat
  /-- CPU_HZ, instruction cycles a second; read by the step sequencer only. -/
  cpuHz : Rat
  /-- KEY_SKIP_SOURCE. -/
  keySkipSource : KeySkipSource
  /-- KEYWAIT_MODE. -/
  keyWaitMode : KeyWaitMode
deriving DecidableEq, Repr

/-- MEM_SIZE (R5). -/
def memSize : Nat := 4096

/-- The last address of memory (R50). -/
def memTop : Nat := 0xFFF

/-- ENTRY: where the image is loaded and PC starts (R5). -/
def entry : Nat := 0x200

/-- PROG_MAX: the longest image in bytes (R5, R241). -/
def progMax : Nat := 3584

/-- DISP_W (R5). -/
def dispW : Nat := 64

/-- DISP_H (R5). -/
def dispH : Nat := 32

/-- FONT_LEN (R5). -/
def fontLen : Nat := 80

/-- GLYPH_LEN (R5). -/
def glyphLen : Nat := 5

/-- TIMER_HZ (R5). -/
def timerHz : Rat := 60

/-- The byte the random source answers at its k-th draw where the host's schedule names none: a free
value, under no law (spec/60_exceptions.md R219; log entry 5). It has no body, so nothing can be proved
of it. -/
opaque Config.freeRandomByte : Nat → Byte

end Sys2Proof
end

