-- ==== Sys2Proof/Machine/ResetConfig.lean ====
section
/-! DEFINITION. The configuration State.reset is built with (log entry 1). -/

namespace Sys2Proof

/-- DESIGN CHOICE, unsafe (log entry 1): the configuration the reset state holds. The spec gives
STACK_DEPTH, FONT_BASE, KEY_SKIP_SOURCE and KEYWAIT_MODE these defaults (spec/00_scope.md R6) and gives
the quirk flags, UNKNOWN_POLICY and CPU_HZ none; for those this is the convention of
spec/95_test_vectors.md, and 500 cycles a second. -/
def Config.atReset : Config where
  qShiftVy := false
  qLogicVfReset := false
  qMemIncI := false
  qJumpVx := false
  qDrawWrap := false
  unknownPolicy := .fault
  stackDepth := 16
  fontBase := 0x050
  cpuHz := 500
  keySkipSource := .lastPressed
  keyWaitMode := .level

end Sys2Proof
end

