-- ==== Sys2Proof/Syntax.lean ====
section
/-! DEFINITION. The 34 instructions of spec/30_encoding.md R74, one constructor a row of
spec/opcode_table.json, in the order of that table; and the decoded form (R80), which is an instruction
or the explicit UNKNOWN. -/

namespace Sys2Proof

/-- A decoded instruction with its operand fields (R80). `x` and `y` are register numbers, `n`, `nn` and
`nnn` immediates (R71). -/
inductive Instr where
  /-- CLS, 00E0. -/
  | cls
  /-- RET, 00EE. -/
  | ret
  /-- JP, 1nnn. -/
  | jp (nnn : Addr12)
  /-- CALL, 2nnn. -/
  | call (nnn : Addr12)
  /-- SE_IMM, 3xnn. -/
  | seImm (x : RegIdx) (nn : Byte)
  /-- SNE_IMM, 4xnn. -/
  | sneImm (x : RegIdx) (nn : Byte)
  /-- SE_REG, 5xy0. -/
  | seReg (x y : RegIdx)
  /-- SNE_REG, 9xy0. -/
  | sneReg (x y : RegIdx)
  /-- LD_IMM, 6xnn. -/
  | ldImm (x : RegIdx) (nn : Byte)
  /-- ADD_IMM, 7xnn. -/
  | addImm (x : RegIdx) (nn : Byte)
  /-- LD_REG, 8xy0. -/
  | ldReg (x y : RegIdx)
  /-- OR, 8xy1. -/
  | orReg (x y : RegIdx)
  /-- AND, 8xy2. -/
  | andReg (x y : RegIdx)
  /-- XOR, 8xy3. -/
  | xorReg (x y : RegIdx)
  /-- ADD_REG, 8xy4. -/
  | addReg (x y : RegIdx)
  /-- SUB, 8xy5. -/
  | sub (x y : RegIdx)
  /-- SHR, 8xy6. -/
  | shr (x y : RegIdx)
  /-- SUBN, 8xy7. -/
  | subn (x y : RegIdx)
  /-- SHL, 8xyE. -/
  | shl (x y : RegIdx)
  /-- LD_I, Annn. -/
  | ldI (nnn : Addr12)
  /-- ADD_I, Fx1E. -/
  | addI (x : RegIdx)
  /-- RND, Cxnn. -/
  | rnd (x : RegIdx) (nn : Byte)
  /-- DRW, Dxyn. -/
  | drw (x y : RegIdx) (n : Nibble)
  /-- SKP, Ex9E. -/
  | skp (x : RegIdx)
  /-- SKNP, ExA1. -/
  | sknp (x : RegIdx)
  /-- LD_VX_DT, Fx07. -/
  | ldVxDt (x : RegIdx)
  /-- LD_DT_VX, Fx15. -/
  | ldDtVx (x : RegIdx)
  /-- LD_ST_VX, Fx18. -/
  | ldStVx (x : RegIdx)
  /-- LD_B, Fx33. -/
  | ldB (x : RegIdx)
  /-- LD_F, Fx29. -/
  | ldF (x : RegIdx)
  /-- LD_MEM_VX, Fx55. -/
  | ldMemVx (x : RegIdx)
  /-- LD_VX_MEM, Fx65. -/
  | ldVxMem (x : RegIdx)
  /-- JP_OFF, Bnnn; `r` is the offset register the decoder gives it (R75, R80, R113). -/
  | jpOff (nnn : Addr12) (r : RegIdx)
  /-- LD_VX_K, Fx0A. -/
  | ldVxK (x : RegIdx)
deriving DecidableEq, Repr

/-- What a 16-bit word decodes to: one of the 34 instructions, or the explicit "unknown" variant with the
raw word (R75, R77). -/
inductive Decoded where
  | known (i : Instr)
  | unknown (w : Word)
deriving DecidableEq, Repr

end Sys2Proof
end

