-- ==== Sys2Proof/Machine/Fields.lean ====
section
/-! DEFINITION. The fields of an instruction word (spec/30_encoding.md R71), the byte order of a word in
memory (spec/20_memory.md R54), and JP_OFF's offset register (R75, spec/41_flow.md R113). -/

namespace Sys2Proof

/-- `x`, bits 11 to 8 (R71). -/
def fieldX (w : Word) : RegIdx := w.extractLsb' 8 4

/-- `y`, bits 7 to 4 (R71). -/
def fieldY (w : Word) : RegIdx := w.extractLsb' 4 4

/-- `n`, bits 3 to 0 (R71). -/
def fieldN (w : Word) : Nibble := w.extractLsb' 0 4

/-- `nn`, bits 7 to 0 (R71). -/
def fieldNN (w : Word) : Byte := w.extractLsb' 0 8

/-- `nnn`, bits 11 to 0 (R71). -/
def fieldNNN (w : Word) : Addr12 := w.extractLsb' 0 12

/-- The byte of a word that stands at the lower address, bits 15 to 8 (R54). -/
def highByte (w : Word) : Byte := w.extractLsb' 8 8

/-- The byte of a word that stands at the higher address, bits 7 to 0 (R54). -/
def lowByte (w : Word) : Byte := w.extractLsb' 0 8

/-- The word of two bytes, the lower-addressed one first: big-endian (R54). -/
def wordOfBytes (first second : Byte) : Word := first ++ second

/-- JP_OFF's offset register: the high nibble of the address under Q_JUMP_VX, else V0 (R113). -/
def offsetRegister (cfg : Config) (nnn : Addr12) : RegIdx :=
  if cfg.qJumpVx then nnn.extractLsb' 8 4 else 0

end Sys2Proof
end

