-- ==== Sys2Proof/WellFormed.lean ====
section
/-! DEFINITION. Which instruction terms and configurations the spec admits. Every operand field is typed
at its width (spec/30_encoding.md R71), so the one relation left is JP_OFF's offset register (R75). -/

namespace Sys2Proof

/-- An instruction term is one the decoder can give under `cfg`: JP_OFF carries exactly the offset
register that `cfg` selects (R75, R113); no other operand is restricted (spec/40_cycle.md R98 (c)). -/
def Instr.wellFormed (cfg : Config) : Instr → Bool
  | .jpOff nnn r => r == offsetRegister cfg nnn
  | _ => true

/-- A configuration that Reset accepts (spec/70_reset_and_hazards.md R240). -/
def Config.valid (cfg : Config) : Bool :=
  decide (1 ≤ cfg.stackDepth) && decide (cfg.fontBase + fontLen ≤ entry) && decide (0 < cfg.cpuHz)

end Sys2Proof
end

