-- ==== Sys2Proof/Decode.lean ====
section
/-! DEFINITION. The decoder (spec/30_encoding.md R75): the opcode map of R74 as rows of match and mask,
total on every word, with UNKNOWN for a word that matches no row; and the encoder, written from the same
map. -/

namespace Sys2Proof

/-- A row of the opcode map (R74): a word `w` is the instruction exactly when `w &&& mask = value`. -/
structure OpcodeRow where
  mnemonic : String
  value : Word
  mask : Word
  build : Config → Word → Instr

/-- Formats Z and A (R72): no operand, or the address `nnn`. -/
def rowsAddress : List OpcodeRow :=
  [ ⟨"CLS", 0x00E0, 0xFFFF, fun _ _ => .cls⟩,
    ⟨"RET", 0x00EE, 0xFFFF, fun _ _ => .ret⟩,
    ⟨"JP", 0x1000, 0xF000, fun _ w => .jp (fieldNNN w)⟩,
    ⟨"CALL", 0x2000, 0xF000, fun _ w => .call (fieldNNN w)⟩,
    ⟨"LD_I", 0xA000, 0xF000, fun _ w => .ldI (fieldNNN w)⟩,
    ⟨"JP_OFF", 0xB000, 0xF000, fun cfg w => .jpOff (fieldNNN w) (offsetRegister cfg (fieldNNN w))⟩ ]

/-- Format XI (R72): a register and a byte. -/
def rowsRegisterByte : List OpcodeRow :=
  [ ⟨"SE_IMM", 0x3000, 0xF000, fun _ w => .seImm (fieldX w) (fieldNN w)⟩,
    ⟨"SNE_IMM", 0x4000, 0xF000, fun _ w => .sneImm (fieldX w) (fieldNN w)⟩,
    ⟨"LD_IMM", 0x6000, 0xF000, fun _ w => .ldImm (fieldX w) (fieldNN w)⟩,
    ⟨"ADD_IMM", 0x7000, 0xF000, fun _ w => .addImm (fieldX w) (fieldNN w)⟩,
    ⟨"RND", 0xC000, 0xF000, fun _ w => .rnd (fieldX w) (fieldNN w)⟩ ]

/-- Formats XY and XYN (R72): two registers, and DRW's nibble. -/
def rowsTwoRegisters : List OpcodeRow :=
  [ ⟨"SE_REG", 0x5000, 0xF00F, fun _ w => .seReg (fieldX w) (fieldY w)⟩,
    ⟨"SNE_REG", 0x9000, 0xF00F, fun _ w => .sneReg (fieldX w) (fieldY w)⟩,
    ⟨"LD_REG", 0x8000, 0xF00F, fun _ w => .ldReg (fieldX w) (fieldY w)⟩,
    ⟨"OR", 0x8001, 0xF00F, fun _ w => .orReg (fieldX w) (fieldY w)⟩,
    ⟨"AND", 0x8002, 0xF00F, fun _ w => .andReg (fieldX w) (fieldY w)⟩,
    ⟨"XOR", 0x8003, 0xF00F, fun _ w => .xorReg (fieldX w) (fieldY w)⟩,
    ⟨"ADD_REG", 0x8004, 0xF00F, fun _ w => .addReg (fieldX w) (fieldY w)⟩,
    ⟨"SUB", 0x8005, 0xF00F, fun _ w => .sub (fieldX w) (fieldY w)⟩,
    ⟨"SHR", 0x8006, 0xF00F, fun _ w => .shr (fieldX w) (fieldY w)⟩,
    ⟨"SUBN", 0x8007, 0xF00F, fun _ w => .subn (fieldX w) (fieldY w)⟩,
    ⟨"SHL", 0x800E, 0xF00F, fun _ w => .shl (fieldX w) (fieldY w)⟩,
    ⟨"DRW", 0xD000, 0xF000, fun _ w => .drw (fieldX w) (fieldY w) (fieldN w)⟩ ]

/-- Format X (R72): one register. -/
def rowsOneRegister : List OpcodeRow :=
  [ ⟨"SKP", 0xE09E, 0xF0FF, fun _ w => .skp (fieldX w)⟩,
    ⟨"SKNP", 0xE0A1, 0xF0FF, fun _ w => .sknp (fieldX w)⟩,
    ⟨"LD_VX_DT", 0xF007, 0xF0FF, fun _ w => .ldVxDt (fieldX w)⟩,
    ⟨"LD_VX_K", 0xF00A, 0xF0FF, fun _ w => .ldVxK (fieldX w)⟩,
    ⟨"LD_DT_VX", 0xF015, 0xF0FF, fun _ w => .ldDtVx (fieldX w)⟩,
    ⟨"LD_ST_VX", 0xF018, 0xF0FF, fun _ w => .ldStVx (fieldX w)⟩,
    ⟨"ADD_I", 0xF01E, 0xF0FF, fun _ w => .addI (fieldX w)⟩,
    ⟨"LD_F", 0xF029, 0xF0FF, fun _ w => .ldF (fieldX w)⟩,
    ⟨"LD_B", 0xF033, 0xF0FF, fun _ w => .ldB (fieldX w)⟩,
    ⟨"LD_MEM_VX", 0xF055, 0xF0FF, fun _ w => .ldMemVx (fieldX w)⟩,
    ⟨"LD_VX_MEM", 0xF065, 0xF0FF, fun _ w => .ldVxMem (fieldX w)⟩ ]

/-- The opcode map (R74). -/
def opcodeRows : List OpcodeRow :=
  rowsAddress ++ rowsRegisterByte ++ rowsTwoRegisters ++ rowsOneRegister

/-- `w` matches the row (R74). -/
def OpcodeRow.matches (r : OpcodeRow) (w : Word) : Bool := w &&& r.mask == r.value

/-- `Decode(w, config)` (R75): the row that matches, or UNKNOWN with the raw word. -/
def decode (cfg : Config) (w : Word) : Decoded :=
  match opcodeRows.find? (fun r => r.matches w) with
  | some r => .known (r.build cfg w)
  | none => .unknown w

/-- Decoding the next instruction of a byte string: two bytes, the high one first (R54, R70), with the
rest of the bytes; `none` where fewer than two are left. -/
def decodeBytes (cfg : Config) : List Byte → Option (Decoded × List Byte)
  | first :: second :: rest => some (decode cfg (wordOfBytes first second), rest)
  | _ => none

/-- The word with the major opcode `op` and the address `nnn` (format A of R72). -/
def wordA (op : BitVec 4) (nnn : Addr12) : Word := op ++ nnn

/-- The word with the major opcode `op`, the register `x` and the byte `nn` (formats XI and X of R72). -/
def wordXI (op : BitVec 4) (x : RegIdx) (nn : Byte) : Word := op ++ (x ++ nn)

/-- The word of four nibbles (formats XY and XYN of R72). -/
def wordXYN (op : BitVec 4) (x y : RegIdx) (n : Nibble) : Word := op ++ (x ++ (y ++ n))

/-- The word of an instruction (R72, R74). JP_OFF's offset register is no field of the word (R75). -/
def encode : Instr → Word
  | .cls => 0x00E0
  | .ret => 0x00EE
  | .jp nnn => wordA 0x1 nnn
  | .call nnn => wordA 0x2 nnn
  | .seImm x nn => wordXI 0x3 x nn
  | .sneImm x nn => wordXI 0x4 x nn
  | .seReg x y => wordXYN 0x5 x y 0x0
  | .sneReg x y => wordXYN 0x9 x y 0x0
  | .ldImm x nn => wordXI 0x6 x nn
  | .addImm x nn => wordXI 0x7 x nn
  | .ldReg x y => wordXYN 0x8 x y 0x0
  | .orReg x y => wordXYN 0x8 x y 0x1
  | .andReg x y => wordXYN 0x8 x y 0x2
  | .xorReg x y => wordXYN 0x8 x y 0x3
  | .addReg x y => wordXYN 0x8 x y 0x4
  | .sub x y => wordXYN 0x8 x y 0x5
  | .shr x y => wordXYN 0x8 x y 0x6
  | .subn x y => wordXYN 0x8 x y 0x7
  | .shl x y => wordXYN 0x8 x y 0xE
  | .ldI nnn => wordA 0xA nnn
  | .addI x => wordXI 0xF x 0x1E
  | .rnd x nn => wordXI 0xC x nn
  | .drw x y n => wordXYN 0xD x y n
  | .skp x => wordXI 0xE x 0x9E
  | .sknp x => wordXI 0xE x 0xA1
  | .ldVxDt x => wordXI 0xF x 0x07
  | .ldDtVx x => wordXI 0xF x 0x15
  | .ldStVx x => wordXI 0xF x 0x18
  | .ldB x => wordXI 0xF x 0x33
  | .ldF x => wordXI 0xF x 0x29
  | .ldMemVx x => wordXI 0xF x 0x55
  | .ldVxMem x => wordXI 0xF x 0x65
  | .jpOff nnn _ => wordA 0xB nnn
  | .ldVxK x => wordXI 0xF x 0x0A

/-- The two bytes of an instruction as memory holds them, the high one first (R54). -/
def encodeBytes (i : Instr) : List Byte := [highByte (encode i), lowByte (encode i)]

/-- The word whose low `nbits` bits are those of `w` and whose other bits are 0. -/
def tableWord (nbits w : Nat) : Word := BitVec.ofNat 16 (w % 2 ^ nbits)

/-- The instruction the decoder reads from the bytes of a table word laid out as memory holds them, under
the reset configuration (log entry 12); `none` for UNKNOWN. -/
def decodeTableWord (nbits w : Nat) : Option Instr :=
  match decodeBytes Config.atReset [highByte (tableWord nbits w), lowByte (tableWord nbits w)] with
  | some (.known i, _) => some i
  | _ => none

end Sys2Proof
end

