-- ==== Sys2Proof/Machine/State.lean ====
section
/-! DEFINITION. The state of the core as plain data: every piece of spec/10_state.md R20 to R38, the
configuration (R35), the step sequencer's accumulators (spec/70_reset_and_hazards.md R251), and four
fields of the model's own that stand for the host's side (log entries 4, 5, 6); the reasons a step can
stop; and the state after reset (R39). -/

namespace Sys2Proof.Machine

/-- The kinds of the fault latch (spec/10_state.md R33, spec/60_exceptions.md R200). -/
inductive FaultKind where
  | unknownOpcode
  | stackOverflow
  | stackUnderflow
  | memoryOutOfBounds
deriving DecidableEq, Repr

/-- What a latched fault records: kind, fetch address, fetched word (none for a fetch fault)
(R33, R205). -/
structure FaultRecord where
  kind : FaultKind
  addr : Word
  word : Option Word
deriving DecidableEq, Repr

/-- A notification to the sound sink (spec/60_exceptions.md R216). -/
inductive SoundNote where
  | start
  | stop
deriving DecidableEq, Repr

/-- An event of the core's interface (spec/00_scope.md R7, spec/60_exceptions.md R226). -/
inductive Event where
  /-- One instruction cycle, with the byte of the random source. -/
  | cycle (rand : Byte)
  /-- One tick of the 60 Hz timer clock. -/
  | tick60
  /-- A logical key goes down. -/
  | keyPress (k : Key)
  /-- A logical key goes up. -/
  | keyRelease (k : Key)
  /-- Construction with a program image and a configuration. -/
  | reset (image : List Byte) (config : Config)
deriving DecidableEq, Repr

/-- Memory (R27): the bytes that differ from what an unlisted address reads as, by rising address
(log entry 8). -/
abbrev Memory := List Host.Cell

/-- The display buffer (R28): 32 rows of 64 one-bit pixels; bit `x` of row `y` is `px[x][y]`. -/
abbrev Display := Vector (BitVec 64) 32

/-- The state of the machine. -/
@[ext]
structure State where
  /-- V0 to VF (R20); register 15 is VF, the flag (R21). -/
  v : Vector Byte 16
  /-- The index register I (R22). -/
  i : Word
  /-- The program counter (R23). -/
  pc : Word
  /-- The call stack, oldest first; its length is `sp` (R24). -/
  stack : List Word
  /-- The delay timer DT (R25). -/
  dt : Byte
  /-- The sound timer ST (R26). -/
  st : Byte
  /-- Memory (R27). -/
  mem : Memory
  /-- The display buffer (R28). -/
  display : Display
  /-- The 16 key-down flags (R29). -/
  keys : Vector Bool 16
  /-- The currently tracked last pressed key (R30). -/
  lastPressed : Option Key
  /-- The awaiting-key flag (R31). -/
  awaiting : Bool
  /-- The awaited register while `awaiting` (R31). -/
  waitReg : RegIdx
  /-- The latch of KEYWAIT_MODE = edge (R32); in level mode it stays none (log entry 14). -/
  waitLatch : Option Key
  /-- The fault latch (R33). -/
  fault : Option FaultRecord
  /-- The most recently executed decoded instruction with its raw word (R34). -/
  lastInst : Option (Word × Decoded)
  /-- The configuration, read-only between resets (R35). -/
  config : Config
  /-- The step sequencer's accumulator for cycles (R38, R251). -/
  cpuAcc : Rat
  /-- The step sequencer's accumulator for ticks (R38, R251). -/
  tmrAcc : Rat
  /-- MODEL'S OWN (log entry 4): the host's events still to come, oldest first. -/
  schedule : List Event
  /-- MODEL'S OWN (log entry 5): the byte of the latest Cycle event that fetched, none where the host
  named none. -/
  randIn : Option Byte
  /-- MODEL'S OWN (log entry 5): how many random bytes RND has consumed. -/
  draws : Nat
  /-- MODEL'S OWN (log entry 6): the sound notifications sent so far, oldest first. -/
  sounds : List SoundNote
deriving DecidableEq, Repr

/-- The reasons a step ends in a fault. The four faults of a cycle are no stops: they latch in
`State.fault` and the step answers a next state (log entry 7). -/
inductive Fault where
  /-- Raised by a Reset event whose image is longer than 3584 bytes (spec/60_exceptions.md R200, R201):
  no machine results. Safe: the model stops where the spec gives no state. -/
  | loadError
deriving DecidableEq, Repr

/-- The reasons a step is refused. -/
inductive Refusal where
  /-- An instruction that has no meaning yet, by its mnemonic; no arm of exec answers with it. Safe: the
  model stops. -/
  | notModelled (mnemonic : String)
  /-- Raised by a Reset event whose configuration breaks a validity condition
  (spec/70_reset_and_hazards.md R240, spec/93_implementation_defined.md U20, U21). Safe: the model stops
  where the spec accepts no input. -/
  | invalidConfig
deriving DecidableEq, Repr

/-- What an instruction, an event or a step answers. -/
abbrev StepOutcome := Host.Outcome State Fault Refusal

/-- The state after `Reset([], config)` (R39, spec/70_reset_and_hazards.md R240): an empty image, so
memory holds only the font table and zeros and nothing is listed. `waitReg` is a DESIGN CHOICE (log
entry 3), the model's own fields too (log entries 4, 5, 6). -/
def State.fresh (config : Config) : State where
  v := Vector.replicate 16 0
  i := 0
  pc := 0x200
  stack := []
  dt := 0
  st := 0
  mem := []
  display := Vector.replicate 32 0
  keys := Vector.replicate 16 false
  lastPressed := none
  awaiting := false
  waitReg := 0
  waitLatch := none
  fault := none
  lastInst := none
  config := config
  cpuAcc := 0
  tmrAcc := 0
  schedule := []
  randIn := none
  draws := 0
  sounds := []

/-- The machine right after reset (R39), with an empty image and the configuration of log entry 1. -/
def State.reset : State := State.fresh Config.atReset

end Sys2Proof.Machine
end

