-- ==== Sys2Proof/Machine/Font.lean ====
section
/-! DEFINITION. The font table (spec/20_memory.md R68, R69) and what a byte of memory holds at reset
before an image is loaded (R60). -/

namespace Sys2Proof.Machine

/-- The glyphs of the digits 0 to 7 (R69). -/
def fontLow : List Byte :=
  [ 0xF0, 0x90, 0x90, 0x90, 0xF0,
    0x20, 0x60, 0x20, 0x20, 0x70,
    0xF0, 0x10, 0xF0, 0x80, 0xF0,
    0xF0, 0x10, 0xF0, 0x10, 0xF0,
    0x90, 0x90, 0xF0, 0x10, 0x10,
    0xF0, 0x80, 0xF0, 0x10, 0xF0,
    0xF0, 0x80, 0xF0, 0x90, 0xF0,
    0xF0, 0x10, 0x20, 0x40, 0x40 ]

/-- The glyphs of the digits 8 to F (R69). -/
def fontHigh : List Byte :=
  [ 0xF0, 0x90, 0xF0, 0x90, 0xF0,
    0xF0, 0x90, 0xF0, 0x10, 0xF0,
    0xF0, 0x90, 0xF0, 0x90, 0x90,
    0xE0, 0x90, 0xE0, 0x90, 0xE0,
    0xF0, 0x80, 0x80, 0x80, 0xF0,
    0xE0, 0x90, 0x90, 0x90, 0xE0,
    0xF0, 0x80, 0xF0, 0x80, 0xF0,
    0xF0, 0x80, 0xF0, 0x80, 0x80 ]

/-- The 80 font bytes, lowest address first (R69). -/
def fontTable : List Byte := fontLow ++ fontHigh

/-- What an address reads as that nothing has written since reset: the font table at FONT_BASE, zero
elsewhere (R60; log entry 8). -/
def resetByte (fontBase a : Nat) : Byte :=
  if fontBase ≤ a ∧ a < fontBase + fontLen then fontTable.getD (a - fontBase) 0 else 0

end Sys2Proof.Machine
end

