-- ==== Sys2Proof/Machine/Ops.lean ====
section
/-! DEFINITION. The named operations over the state: registers, call stack, memory, display, key flags,
sound, and taking a fault (the core's only exceptions). -/

namespace Sys2Proof.Machine

/-! ## Registers (spec/10_state.md R20 to R23) -/

/-- `V[r]` (R20). -/
def State.readV (s : State) (r : RegIdx) : Byte := s.v[r.toNat]'r.isLt

/-- `V[r] <- b` (R20). -/
def State.writeV (s : State) (r : RegIdx) (b : Byte) : State := { s with v := s.v.set r.toNat b r.isLt }

/-- The register number of VF (R21). -/
def vf : RegIdx := 15

/-- `V[k] <- bytes[0], V[k+1] <- bytes[1], ...` (the loop of spec/43_index_memory.md R155). -/
def State.writeVs (s : State) (k : Nat) : List Byte → State
  | [] => s
  | b :: rest => (s.writeV (BitVec.ofNat 4 k) b).writeVs (k + 1) rest

/-- `[V[0], V[1], ..., V[n-1]]` (spec/43_index_memory.md R154). -/
def State.readVs (s : State) (n : Nat) : List Byte :=
  (List.range n).map fun k => s.readV (BitVec.ofNat 4 k)

/-- `I <- a` (R22). -/
def State.setI (s : State) (a : Word) : State := { s with i := a }

/-- `pc <- a` (R23). -/
def State.setPc (s : State) (a : Word) : State := { s with pc := a }

/-- The skip of spec/41_flow.md R118: `pc <- pc + 2` where the condition holds. -/
def State.skipIf (s : State) (c : Bool) : State := if c then s.setPc (s.pc + 2) else s

/-! ## Call stack (R24) -/

/-- `sp` (R24). -/
def State.sp (s : State) : Nat := s.stack.length

/-- `Push(v)` once room is known (R24). -/
def State.push (s : State) (a : Word) : State := { s with stack := s.stack ++ [a] }

/-- `Push` has no room: `sp = STACK_DEPTH` (R24). -/
def State.stackFull (s : State) : Bool := s.sp == s.config.stackDepth

/-- `Pop()` (R24): the last element and the state without it; none where the stack is empty. -/
def State.pop (s : State) : Option (Word × State) :=
  match s.stack.getLast? with
  | some a => some (a, { s with stack := s.stack.dropLast })
  | none => none

/-! ## Memory (spec/20_memory.md R50 to R59)

`d` is what an unlisted address reads as; a list of cells is read, written and kept in canonical form
relative to it (log entry 8). -/

/-- The byte at `a`. -/
def Memory.read (d : Nat → Byte) : Memory → Nat → Byte
  | [], a => d a
  | c :: rest, a => if c.1 = a then c.2 else Memory.read d rest a

/-- `m` without a cell at `a`. -/
def Memory.erase : Memory → Nat → Memory
  | [], _ => []
  | c :: rest, a => if c.1 = a then Memory.erase rest a else c :: Memory.erase rest a

/-- `m` with the cell `(a, b)` in its place by rising address. -/
def Memory.insert : Memory → Nat → Byte → Memory
  | [], a, b => [(a, b)]
  | c :: rest, a, b =>
    if a < c.1 then (a, b) :: c :: rest
    else if a = c.1 then (a, b) :: rest
    else c :: Memory.insert rest a b

/-- `mem[a] <- b`: a byte equal to what an unlisted address reads as removes the cell. -/
def Memory.write (d : Nat → Byte) (m : Memory) (a : Nat) (b : Byte) : Memory :=
  if b = d a then Memory.erase m a else Memory.insert m a b

/-- `mem[a] <- bytes[0], mem[a+1] <- bytes[1], ...`, lowest address first (R52). -/
def Memory.writeAll (d : Nat → Byte) (m : Memory) (a : Nat) : List Byte → Memory
  | [] => m
  | b :: rest => Memory.writeAll d (Memory.write d m a b) (a + 1) rest

/-- The canonical form: addresses strictly rising and inside memory, no cell equal to what an unlisted
address reads as. -/
abbrev Memory.wf (d : Nat → Byte) (m : Memory) : Prop :=
  m.Pairwise (fun c c' => c.1 < c'.1) ∧ ∀ c ∈ m, c.1 < memSize ∧ c.2 ≠ d c.1

/-- What an unlisted address of `s` reads as (R60). -/
def State.unlisted (s : State) : Nat → Byte := resetByte s.config.fontBase

/-- `mem[a]`. -/
def State.readByte (s : State) (a : Nat) : Byte := Memory.read s.unlisted s.mem a

/-- `mem[a] <- bytes[0], ...` with no check: the writing half of MemWrite and the loader (R52, R240). -/
def State.storeBytes (s : State) (a : Nat) (bytes : List Byte) : State :=
  { s with mem := Memory.writeAll s.unlisted s.mem a bytes }

/-- The bound check of an access of `n` bytes at `a`, on unbounded naturals (R52, R53). -/
def inBounds (a n : Nat) : Bool := decide (a + n - 1 ≤ memTop)

/-- `MemRead(a, n)`, n at least 1 (R52); none where it raises MemoryOutOfBounds. -/
def State.memRead (s : State) (a n : Nat) : Option (List Byte) :=
  if inBounds a n then some ((List.range n).map fun k => s.readByte (a + k)) else none

/-- `MemWrite(a, n, v)`, n the length of `v` (R52); none where it raises MemoryOutOfBounds. -/
def State.memWrite (s : State) (a : Nat) (bytes : List Byte) : Option State :=
  if inBounds a bytes.length then some (s.storeBytes a bytes) else none

/-- The fetch of spec/40_cycle.md R94: the big-endian word at `pc`; none where it raises
MemoryOutOfBounds. -/
def State.fetch (s : State) : Option Word :=
  if s.pc.toNat + 1 ≤ memTop then
    some (wordOfBytes (s.readByte s.pc.toNat) (s.readByte (s.pc.toNat + 1)))
  else none

/-! ## Display (spec/10_state.md R28) -/

/-- `px[x][y]`. -/
def Display.px (d : Display) (x : Fin 64) (y : Fin 32) : Bool := (d[y.val]'y.isLt).getLsbD x.val

/-- `px[x][y] <- px[x][y] ^ 1`. -/
def Display.flip (d : Display) (x : Fin 64) (y : Fin 32) : Display :=
  d.set y.val (d[y.val]'y.isLt ^^^ BitVec.twoPow 64 x.val) y.isLt

/-- Every pixel 0. -/
def Display.blank : Display := Vector.replicate 32 0

/-- Replacing the display buffer. -/
def State.setDisplay (s : State) (d : Display) : State := { s with display := d }

/-! ## Key flags (R29) -/

/-- `keys[k]`. -/
def State.keyDown (s : State) (k : Key) : Bool := s.keys[k.toNat]'k.isLt

/-- `keys[k] <- down`. -/
def State.setKey (s : State) (k : Key) (down : Bool) : State :=
  { s with keys := s.keys.set k.toNat down k.isLt }

/-! ## Timers and sound (R25, R26, spec/60_exceptions.md R216) -/

/-- `DT <- b`. -/
def State.setDT (s : State) (b : Byte) : State := { s with dt := b }

/-- The notification a change of ST from `old` to `new` sends (R216). -/
def soundCrossing (old new : Byte) : List SoundNote :=
  if old = 0 ∧ new ≠ 0 then [.start] else if old ≠ 0 ∧ new = 0 then [.stop] else []

/-- `ST <- b`, with the notification of a crossing (R216, spec/45_keypad_timers.md R180). -/
def State.setST (s : State) (b : Byte) : State :=
  { s with st := b, sounds := s.sounds ++ soundCrossing s.st b }

/-- The level output `sound_on` (R216). -/
def State.soundOn (s : State) : Bool := s.st != 0

/-! ## Taking a fault (spec/60_exceptions.md R205)

There is no handler, no vector and no return (R206): the latch is set and nothing else happens. Reset is
the only way out (`resetMachine`). -/

/-- `raise K` by an instruction: the latch takes the kind, the fetch address and the fetched word. The
instruction runs with `pc` already 2 past its fetch address (spec/40_cycle.md R96), and the fetched word
is the one `lastInst` holds (R95), so both are read back from there (log entry 7). -/
def State.raise (s : State) (kind : FaultKind) : State :=
  { s with fault := some { kind := kind, addr := s.pc - 2, word := s.lastInst.map (·.1) } }

/-- The fetch fault (spec/40_cycle.md R94): the address is `pc`, which keeps its value, and there is no
word. -/
def State.raiseFetch (s : State) : State :=
  { s with fault := some { kind := .memoryOutOfBounds, addr := s.pc, word := none } }

/-- The numeric code of the error that a Reset reports (R200). -/
def Fault.code : Fault → Nat
  | .loadError => 1

/-- The numeric code of a fault kind of a cycle (R200). -/
def FaultKind.code : FaultKind → Nat
  | .unknownOpcode => 2
  | .stackOverflow => 3
  | .stackUnderflow => 4
  | .memoryOutOfBounds => 5

/-- What the host sees of an error: code, address, word (R200, R227). A LoadError records neither address
nor word. -/
def Fault.output (f : Fault) : Nat × Option Word × Option Word := (f.code, none, none)

/-- What the host sees of a latched fault: code, address, word (R200, R227). -/
def FaultRecord.output (f : FaultRecord) : Nat × Option Word × Option Word :=
  (f.kind.code, some f.addr, f.word)

/-! ## The common part of a cycle that fetches (spec/40_cycle.md R95, R96) -/

/-- What is committed before dispatch: `last_inst <- (w, d)`, `pc <- a + 2`, and the byte that came with
the Cycle event. -/
def State.beginExec (s : State) (rand : Option Byte) (w : Word) (d : Decoded) : State :=
  { s with lastInst := some (w, d), pc := s.pc + 2, randIn := rand }

/-! ## Placing one instruction for the next step (log entry 9) -/

/-- `s` with the bytes of the word at `pc` (at 0x200 where `pc` is outside memory), no fault latched, no
key awaited and no event of the host before the next Cycle. -/
def State.placeWord (s : State) (w : Word) : State :=
  let a := if s.pc.toNat + 1 ≤ memTop then s.pc else 0x200
  { s.storeBytes a.toNat [highByte w, lowByte w] with
    pc := a, fault := none, awaiting := false, schedule := [] }

end Sys2Proof.Machine
end

