-- ==== Sys2Proof/Machine/Flags.lean ====
section
/-! DEFINITION. The values the instructions write to VF as a flag (spec/10_state.md R21), and the order
in which a result and a flag are written (spec/40_cycle.md R98). -/

namespace Sys2Proof.Machine

/-- A flag as the byte written to VF. -/
def flagByte (c : Bool) : Byte := if c then 1 else 0

/-- ADD_REG's carry out of bit 7 (spec/42_alu.md R136). -/
def carryOut (a b : Byte) : Byte := flagByte (decide (a.toNat + b.toNat > 255))

/-- The not-borrow of `a - b` (R137, R139). -/
def notBorrow (a b : Byte) : Byte := flagByte (decide (a.toNat ≥ b.toNat))

/-- The bit a right shift by one drops (R138). -/
def shiftedOutRight (t : Byte) : Byte := flagByte (t.getLsbD 0)

/-- The bit a left shift by one drops (R140). -/
def shiftedOutLeft (t : Byte) : Byte := flagByte (t.getLsbD 7)

/-- The result first, VF last, so that with destination VF the flag remains (R21, R98). -/
def State.writeResultFlag (s : State) (x : RegIdx) (r flag : Byte) : State :=
  (s.writeV x r).writeV vf flag

/-- The result of OR, AND, XOR, and VF reset to 0 under Q_LOGIC_VF_RESET (spec/42_alu.md R133). -/
def State.writeLogic (s : State) (x : RegIdx) (r : Byte) : State :=
  if s.config.qLogicVfReset then s.writeResultFlag x r 0 else s.writeV x r

end Sys2Proof.Machine
end

