-- ==== Sys2Proof/Machine/Operands.lean ====
section
/-! DEFINITION. The operand forms: the shift source, key numbers, glyph addresses, decimal digits, the
index increment, and the pixels a sprite covers. -/

namespace Sys2Proof.Machine

/-- The value SHR and SHL shift: V[y] under Q_SHIFT_VY, else V[x] (spec/42_alu.md R138, R140). -/
def State.shiftSource (s : State) (x y : RegIdx) : Byte :=
  if s.config.qShiftVy then s.readV y else s.readV x

/-- The random byte of this cycle: the one that came with the Cycle event, else the free value at the
count of draws (spec/60_exceptions.md R219; log entry 5). -/
def State.randomByte (s : State) : Byte := s.randIn.getD (Config.freeRandomByte s.draws)

/-- The key number of a register value, its low nibble (spec/45_keypad_timers.md R175). -/
def keyOf (b : Byte) : Key := b.extractLsb' 0 4

/-- Whether a key counts as pressed for SKP and SKNP, by KEY_SKIP_SOURCE (R175). -/
def State.pressed (s : State) (k : Key) : Bool :=
  match s.config.keySkipSource with
  | .lastPressed => s.lastPressed == some k
  | .flags => s.keyDown k

/-- The address of the glyph of a register value's low nibble (spec/43_index_memory.md R152). -/
def glyphAddr (fontBase : Nat) (b : Byte) : Word :=
  BitVec.ofNat 16 (fontBase + glyphLen * (b.extractLsb' 0 4).toNat)

/-- The decimal digits of a register value, hundreds first (R153). -/
def decimalDigits (b : Byte) : List Byte :=
  [BitVec.ofNat 8 (b.toNat / 100), BitVec.ofNat 8 (b.toNat / 10 % 10), BitVec.ofNat 8 (b.toNat % 10)]

/-- I after a block transfer of `n` bytes: advanced modulo 65536 under Q_MEM_INC_I (R154, R155). -/
def State.advanceI (s : State) (n : Nat) : State :=
  if s.config.qMemIncI then s.setI (s.i + BitVec.ofNat 16 n) else s

/-- The pixel that column `xx` and row `yy` name: wrapped onto the display under Q_DRAW_WRAP, else none
past an edge (spec/44_display.md R166). -/
def placePixel (wrap : Bool) (xx yy : Nat) : Option (Fin 64 × Fin 32) :=
  if wrap then
    some (⟨xx % 64, Nat.mod_lt _ (by decide)⟩, ⟨yy % 32, Nat.mod_lt _ (by decide)⟩)
  else if h : xx < 64 ∧ yy < 32 then some (⟨xx, h.1⟩, ⟨yy, h.2⟩) else none

/-- The pixels of one sprite row: bit 7 of the byte is the leftmost; a bit that is 0 names none
(R166). -/
def rowPixels (wrap : Bool) (x0 yy : Nat) (row : Byte) : List (Fin 64 × Fin 32) :=
  (List.range 8).filterMap fun c => if row.getLsbD (7 - c) then placePixel wrap (x0 + c) yy else none

/-- The pixels of a sprite whose first row stands at row `y0` (R166). -/
def spritePixels (wrap : Bool) (x0 y0 : Nat) : List Byte → List (Fin 64 × Fin 32)
  | [] => []
  | row :: rest => rowPixels wrap x0 y0 row ++ spritePixels wrap x0 (y0 + 1) rest

/-- One pixel of DRW: `if px = 1 then hit <- 1; px <- px ^ 1` (R166). -/
def drawPixel (acc : Display × Bool) (p : Fin 64 × Fin 32) : Display × Bool :=
  (acc.1.flip p.1 p.2, acc.2 || acc.1.px p.1 p.2)

/-- The display and `hit` after the loops of DRW (R166). -/
def drawPixels (d : Display) (ps : List (Fin 64 × Fin 32)) : Display × Bool :=
  ps.foldl drawPixel (d, false)

/-- The rows of a sprite of height `n` at I: none read where `n = 0`; `none` where MemRead raises
(R166). -/
def State.spriteRows (s : State) (n : Nibble) : Option (List Byte) :=
  if n = 0 then some [] else s.memRead s.i.toNat n.toNat

end Sys2Proof.Machine
end

