-- ==== Sys2Proof/Machine/Alu.lean ====
section
/-! DEFINITION. Register load, arithmetic, bitwise, shift and random instructions (spec/42_alu.md). -/

namespace Sys2Proof.Machine

/-- LD_IMM (R130). -/
def execLdImm (x : RegIdx) (nn : Byte) (s : State) : StepOutcome := .next (s.writeV x nn)

/-- ADD_IMM (R131): modulo 256, VF not written as a flag. -/
def execAddImm (x : RegIdx) (nn : Byte) (s : State) : StepOutcome := .next (s.writeV x (s.readV x + nn))

/-- LD_REG (R132). -/
def execLdReg (x y : RegIdx) (s : State) : StepOutcome := .next (s.writeV x (s.readV y))

/-- OR (R133). -/
def execOr (x y : RegIdx) (s : State) : StepOutcome := .next (s.writeLogic x (s.readV x ||| s.readV y))

/-- AND (R134). -/
def execAnd (x y : RegIdx) (s : State) : StepOutcome := .next (s.writeLogic x (s.readV x &&& s.readV y))

/-- XOR (R135). -/
def execXor (x y : RegIdx) (s : State) : StepOutcome := .next (s.writeLogic x (s.readV x ^^^ s.readV y))

/-- ADD_REG (R136). -/
def execAddReg (x y : RegIdx) (s : State) : StepOutcome :=
  .next (s.writeResultFlag x (s.readV x + s.readV y) (carryOut (s.readV x) (s.readV y)))

/-- SUB (R137). -/
def execSub (x y : RegIdx) (s : State) : StepOutcome :=
  .next (s.writeResultFlag x (s.readV x - s.readV y) (notBorrow (s.readV x) (s.readV y)))

/-- SHR (R138). -/
def execShr (x y : RegIdx) (s : State) : StepOutcome :=
  .next (s.writeResultFlag x (s.shiftSource x y >>> 1) (shiftedOutRight (s.shiftSource x y)))

/-- SUBN (R139). -/
def execSubn (x y : RegIdx) (s : State) : StepOutcome :=
  .next (s.writeResultFlag x (s.readV y - s.readV x) (notBorrow (s.readV y) (s.readV x)))

/-- SHL (R140). -/
def execShl (x y : RegIdx) (s : State) : StepOutcome :=
  .next (s.writeResultFlag x (s.shiftSource x y <<< 1) (shiftedOutLeft (s.shiftSource x y)))

/-- RND (R141): exactly one random byte is consumed. -/
def execRnd (x : RegIdx) (nn : Byte) (s : State) : StepOutcome :=
  .next { s.writeV x (s.randomByte &&& nn) with draws := s.draws + 1 }

end Sys2Proof.Machine
end

