-- ==== Sys2Proof/Machine/Flow.lean ====
section
/-! DEFINITION. The control transfer instructions (spec/41_flow.md). Each meaning runs with `pc` already
advanced past the instruction (spec/40_cycle.md R96). -/

namespace Sys2Proof.Machine

/-- RET (R110). -/
def execRet (s : State) : StepOutcome :=
  match s.pop with
  | some (a, s') => .next (s'.setPc a)
  | none => .next (s.raise .stackUnderflow)

/-- JP (R111). -/
def execJp (nnn : Addr12) (s : State) : StepOutcome := .next (s.setPc (nnn.setWidth 16))

/-- CALL (R112): `pc` pushed is the CALL's address plus 2. -/
def execCall (nnn : Addr12) (s : State) : StepOutcome :=
  if s.stackFull then .next (s.raise .stackOverflow)
  else .next ((s.push s.pc).setPc (nnn.setWidth 16))

/-- JP_OFF (R113): the sum is not reduced modulo 4096. -/
def execJpOff (nnn : Addr12) (r : RegIdx) (s : State) : StepOutcome :=
  .next (s.setPc (nnn.setWidth 16 + (s.readV r).setWidth 16))

/-- SE_IMM (R114). -/
def execSeImm (x : RegIdx) (nn : Byte) (s : State) : StepOutcome := .next (s.skipIf (s.readV x == nn))

/-- SNE_IMM (R115). -/
def execSneImm (x : RegIdx) (nn : Byte) (s : State) : StepOutcome := .next (s.skipIf (s.readV x != nn))

/-- SE_REG (R116). -/
def execSeReg (x y : RegIdx) (s : State) : StepOutcome := .next (s.skipIf (s.readV x == s.readV y))

/-- SNE_REG (R117). -/
def execSneReg (x y : RegIdx) (s : State) : StepOutcome := .next (s.skipIf (s.readV x != s.readV y))

end Sys2Proof.Machine
end

