-- ==== Sys2Proof/Machine/IndexMemory.lean ====
section
/-! DEFINITION. Index register, BCD, font and memory block instructions (spec/43_index_memory.md). -/

namespace Sys2Proof.Machine

/-- LD_I (R150). -/
def execLdI (nnn : Addr12) (s : State) : StepOutcome := .next (s.setI (nnn.setWidth 16))

/-- ADD_I (R151): modulo 65536, VF not written. -/
def execAddI (x : RegIdx) (s : State) : StepOutcome := .next (s.setI (s.i + (s.readV x).setWidth 16))

/-- LD_F (R152). -/
def execLdF (x : RegIdx) (s : State) : StepOutcome :=
  .next (s.setI (glyphAddr s.config.fontBase (s.readV x)))

/-- LD_B (R153). -/
def execLdB (x : RegIdx) (s : State) : StepOutcome :=
  match s.memWrite s.i.toNat (decimalDigits (s.readV x)) with
  | some s' => .next s'
  | none => .next (s.raise .memoryOutOfBounds)

/-- LD_MEM_VX (R154). -/
def execLdMemVx (x : RegIdx) (s : State) : StepOutcome :=
  match s.memWrite s.i.toNat (s.readVs (x.toNat + 1)) with
  | some s' => .next (s'.advanceI (x.toNat + 1))
  | none => .next (s.raise .memoryOutOfBounds)

/-- LD_VX_MEM (R155). -/
def execLdVxMem (x : RegIdx) (s : State) : StepOutcome :=
  match s.memRead s.i.toNat (x.toNat + 1) with
  | some bytes => .next ((s.writeVs 0 bytes).advanceI (x.toNat + 1))
  | none => .next (s.raise .memoryOutOfBounds)

end Sys2Proof.Machine
end

