-- ==== Sys2Proof/Machine/KeypadTimers.lean ====
section
/-! DEFINITION. The keypad and timer instructions (spec/45_keypad_timers.md). -/

namespace Sys2Proof.Machine

/-- SKP (R175). -/
def execSkp (x : RegIdx) (s : State) : StepOutcome := .next (s.skipIf (s.pressed (keyOf (s.readV x))))

/-- SKNP (R176). -/
def execSknp (x : RegIdx) (s : State) : StepOutcome := .next (s.skipIf (!s.pressed (keyOf (s.readV x))))

/-- LD_VX_K (R177): the wait begins; `waitLatch` is cleared only in edge mode, where it exists. -/
def execLdVxK (x : RegIdx) (s : State) : StepOutcome :=
  .next { s with
    awaiting := true
    waitReg := x
    waitLatch := match s.config.keyWaitMode with
      | .edge => none
      | .level => s.waitLatch }

/-- LD_VX_DT (R178). -/
def execLdVxDt (x : RegIdx) (s : State) : StepOutcome := .next (s.writeV x s.dt)

/-- LD_DT_VX (R179). -/
def execLdDtVx (x : RegIdx) (s : State) : StepOutcome := .next (s.setDT (s.readV x))

/-- LD_ST_VX (R180). -/
def execLdStVx (x : RegIdx) (s : State) : StepOutcome := .next (s.setST (s.readV x))

end Sys2Proof.Machine
end

