-- ==== Sys2Proof/Machine/Screen.lean ====
section
/-! DEFINITION. The display instructions (spec/44_display.md). -/

namespace Sys2Proof.Machine

/-- CLS (R165): every pixel 0; VF keeps its value. -/
def execCls (s : State) : StepOutcome := .next (s.setDisplay Display.blank)

/-- DRW (R166): the bound check first, then the pixels, VF last. -/
def execDrw (x y : RegIdx) (n : Nibble) (s : State) : StepOutcome :=
  match s.spriteRows n with
  | some rows =>
    let drawn := drawPixels s.display
      (spritePixels s.config.qDrawWrap ((s.readV x).toNat % dispW) ((s.readV y).toNat % dispH) rows)
    .next ((s.setDisplay drawn.1).writeV vf (flagByte drawn.2))
  | none => .next (s.raise .memoryOutOfBounds)

end Sys2Proof.Machine
end

