-- ==== Sys2Proof/Machine/Unknown.lean ====
section
/-! DEFINITION. The meaning of a word that is none of the 34 instructions (spec/46_unknown.md R190). -/

namespace Sys2Proof.Machine

/-- UNKNOWN (R190): under `fault` it raises UnknownOpcode, under `skip` it does nothing. -/
def execUnknown (s : State) : State :=
  match s.config.unknownPolicy with
  | .fault => s.raise .unknownOpcode
  | .skip => s

end Sys2Proof.Machine
end

