-- ==== Sys2Proof/Machine/Cycle.lean ====
section
/-! DEFINITION. The instruction cycle (spec/40_cycle.md): the fault gate, the key-wait check, fetch,
decode, the PC advance, dispatch. -/

namespace Sys2Proof.Machine

/-- The end of a key wait: the awaited register receives the key code and the block clears (R92). -/
def State.resolveWait (s : State) (k : Key) : State :=
  { s.writeV s.waitReg (k.setWidth 8) with awaiting := false }

/-- `KeyWaitCheck()`: in level mode a tracked key ends the wait (R92), in edge mode a latched one, which
is consumed (R93); otherwise nothing changes. -/
def keyWaitCheck (s : State) : State :=
  match s.config.keyWaitMode with
  | .level =>
    match s.lastPressed with
    | none => s
    | some k => s.resolveWait k
  | .edge =>
    match s.waitLatch with
    | none => s
    | some k => { s.resolveWait k with waitLatch := none }

/-- `Execute(d, rand)` of any decoded form: an instruction (R97) or UNKNOWN (spec/46_unknown.md R190). -/
def execute (d : Decoded) (s : State) : StepOutcome :=
  match d with
  | .known i => exec i s
  | .unknown _ => .next (execUnknown s)

/-- `Cycle(rand)` (R90), in its order: the fault gate (R91), the key-wait check (R92, R93), the fetch
(R94), decode and `last_inst` (R95), the PC advance (R96), dispatch (R97). `rand` is none where the host
named no byte (log entry 5). -/
def cycle (rand : Option Byte) (s : State) : StepOutcome :=
  if s.fault.isSome then .next s
  else if s.awaiting then .next (keyWaitCheck s)
  else
    match s.fetch with
    | none => .next s.raiseFetch
    | some w => execute (decode s.config w) (s.beginExec rand w (decode s.config w))

end Sys2Proof.Machine
end

