-- ==== Sys2Proof/Machine/Events.lean ====
section
/-! DEFINITION. The events of the interface (spec/00_scope.md R7, spec/60_exceptions.md R226): the timer
tick, the key events, Reset, and which event comes next (log entry 4). -/

namespace Sys2Proof.Machine

/-- A counter decremented by one, clamped at zero (R215). -/
def tickDown (b : Byte) : Byte := if b = 0 then 0 else b - 1

/-- `Tick60()` (R215): nothing while a fault is latched. -/
def tick60 (s : State) : State :=
  if s.fault.isSome then s else (s.setDT (tickDown s.dt)).setST (tickDown s.st)

/-- `wait_latch` after `KeyPress(k)` (R217): set by a transition of a key during a wait in edge mode. -/
def State.latchAfterPress (s : State) (k : Key) : Option Key :=
  if s.config.keyWaitMode = .edge ∧ s.awaiting = true ∧ s.waitLatch = none ∧ s.keyDown k = false then
    some k
  else s.waitLatch

/-- `KeyPress(k)` (R217). -/
def keyPress (k : Key) (s : State) : State :=
  { s.setKey k true with lastPressed := some k, waitLatch := s.latchAfterPress k }

/-- `KeyRelease(k)` (R218). -/
def keyRelease (k : Key) (s : State) : State :=
  { s.setKey k false with lastPressed := if s.lastPressed = some k then none else s.lastPressed }

/-- The machine that `Reset(image, config)` constructs (spec/70_reset_and_hazards.md R240): the fresh
state with the image at 0x200. -/
def State.loaded (image : List Byte) (config : Config) : State :=
  (State.fresh config).storeBytes entry image

/-- `Reset(image, config)` on a machine (R240, R242): nothing of the core's old state survives; the
model's own record of the host's side does (log entry 16). An invalid configuration is refused, an image
that is too long fails with LoadError (R201; log entry 10). -/
def resetMachine (image : List Byte) (config : Config) (s : State) : StepOutcome :=
  if config.valid = false then .refused .invalidConfig
  else if image.length > progMax then .fault .loadError
  else .next { State.loaded image config with
    schedule := s.schedule, draws := s.draws, sounds := s.sounds }

/-- One event, whole (R7). -/
def takeEvent (e : Event) (s : State) : StepOutcome :=
  match e with
  | .cycle rand => cycle (some rand) s
  | .tick60 => .next (tick60 s)
  | .keyPress k => .next (keyPress k s)
  | .keyRelease k => .next (keyRelease k s)
  | .reset image config => resetMachine image config s

/-- The next event: the head of the host's schedule, and a Cycle where the schedule is empty
(log entry 4). -/
def nextEvent (s : State) : StepOutcome :=
  match s.schedule with
  | [] => cycle none s
  | e :: rest => takeEvent e { s with schedule := rest }

end Sys2Proof.Machine
end

