-- ==== Sys2Proof/Machine/Step.lean ====
section
/-! DEFINITION. One step of the machine: the next event, applied whole (spec/00_scope.md R7). -/

namespace Sys2Proof.Machine

/-- One step: the next event of the host's schedule, or a Cycle where it names none. -/
def step (s : State) : Host.Outcome State Fault Refusal := nextEvent s

/-- `s` with the instruction word `w` placed so that the very next step fetches and runs it
(log entry 9). -/
def State.withFetchWord (s : State) (nbits w : Nat) : State := s.placeWord (tableWord nbits w)

end Sys2Proof.Machine
end

