-- ==== Sys2Proof/Machine/Queries.lean ====
section
/-! DEFINITION. The read-only queries of the interface (spec/60_exceptions.md R220 to R222). They are
functions of the state, so they change nothing. -/

namespace Sys2Proof.Machine

/-- What `DisplayRead` returns (R220). -/
structure DisplaySnapshot where
  pixels : List Bool
  width : Nat
  height : Nat
deriving DecidableEq, Repr

/-- `DisplayRead` (R220): element `y*64 + x` is `px[x][y]`, with the constants 64 and 32. -/
def displayRead (s : State) : DisplaySnapshot where
  pixels := (List.finRange 32).flatMap fun y => (List.finRange 64).map fun x => s.display.px x y
  width := dispW
  height := dispH

/-- What `DebugDump` returns (R221). -/
structure DebugSnapshot where
  v : List Byte
  i : Word
  pc : Word
  dt : Byte
  st : Byte
  stack : List Word
  mem : List Byte
  lastInst : Option (Word × Decoded)
deriving DecidableEq, Repr

/-- `DebugDump` (R221). -/
def debugDump (s : State) : DebugSnapshot where
  v := s.readVs 16
  i := s.i
  pc := s.pc
  dt := s.dt
  st := s.st
  stack := s.stack
  mem := (List.range memSize).map s.readByte
  lastInst := s.lastInst

/-- `Disassemble(w)` (R222, spec/30_encoding.md R83): the decoder under the engine's own
configuration. -/
def disassemble (w : Word) (s : State) : Decoded := decode s.config w

end Sys2Proof.Machine
end

