-- ==== Sys2Proof/Machine/Sequencer.lean ====
section
/-! DEFINITION. The step call: the host's sequencer that turns a tick budget into Cycle and Tick60 events
(spec/70_reset_and_hazards.md R251, R252; log entry 11). Timing only: no instruction rule reads it
(R250). -/

namespace Sys2Proof.Machine

/-- The two counts of a budget in seconds, and the accumulators that keep the remainders (R251). -/
def State.splitBudget (s : State) (budget : Rat) : Nat × Nat × State :=
  let cpu := s.cpuAcc + budget * s.config.cpuHz
  let tmr := s.tmrAcc + budget * timerHz
  (cpu.floor.toNat, tmr.floor.toNat,
    { s with cpuAcc := cpu - cpu.floor, tmrAcc := tmr - tmr.floor })

/-- An event the sequencer sends. -/
inductive SeqEvent where
  | cycle
  | tick
deriving DecidableEq, Repr

/-- How a step call ends (R252). -/
inductive CallEnd where
  | budgetConsumed
  | keyWait
  | failed (f : FaultRecord)
deriving DecidableEq, Repr

/-- What a step call answers: how it ended and the state it leaves; `notAdmitted` where the order given is
none that the budget allows; `stopped` where a cycle answered no next state, which no cycle of this machine
does. -/
inductive CallResult where
  | ended (how : CallEnd) (s : State)
  | notAdmitted
  | stopped
deriving DecidableEq, Repr

/-- The events of a step call in the order given (R252). `blocked` says that a cycle of this call has
left the core awaiting a key: the remaining cycles are dropped and the ticks still sent. A latched fault
after a cycle drops everything that remains.

DESIGN CHOICE, safe (log entry 11): on a core whose fault was latched before the call, the spec gives the
call no result. Here its first cycle finds the fault and the call ends as `failed` with it; a call without
any cycle ends as `budgetConsumed`, its ticks changing nothing. -/
def runCall : List SeqEvent → Bool → State → CallResult
  | [], blocked, s => .ended (if blocked then .keyWait else .budgetConsumed) s
  | .tick :: rest, blocked, s => runCall rest blocked (tick60 s)
  | .cycle :: rest, true, s => runCall rest true s
  | .cycle :: rest, false, s =>
    match cycle none s with
    | .next s' =>
      match s'.fault with
      | some f => .ended (.failed f) s'
      | none => runCall rest s'.awaiting s'
    | _ => .stopped

/-- The budget is none below zero, and `order` is an interleaving of its cycles and ticks, in an order not
fixed (R251). -/
def State.admits (s : State) (budget : Rat) (order : List SeqEvent) : Bool :=
  decide (0 ≤ budget) && order.count .cycle == (s.splitBudget budget).1 &&
    order.count .tick == (s.splitBudget budget).2.1

/-- `Step(budget)` under one interleaving `order` of its events (R251, R252): an order that the budget does
not admit is not run. -/
def stepCall (budget : Rat) (order : List SeqEvent) (s : State) : CallResult :=
  if s.admits budget order then runCall order false (s.splitBudget budget).2.2 else .notAdmitted

end Sys2Proof.Machine
end

