-- ==== Sys2Proof/Safety.lean ====
section
/-! DEFINITION. What the claims speak of: the invariant of spec/10_state.md R41, what an event leaves
unchanged, which writes the access table of R40 allows, when a cycle faults (spec/60_exceptions.md R200),
and which pixels a sprite covers (spec/44_display.md R166). -/

namespace Sys2Proof.Machine

/-- The invariant of spec/10_state.md R41, with what makes it inductive: the configuration is valid, the
stack is no deeper than STACK_DEPTH, its entries and `pc` stay within the values the rules can produce, a
key latch stands only while the core awaits a key in edge mode, the tracked key is down, and memory is in
canonical form. -/
structure State.Inv (s : State) : Prop where
  configValid : s.config.valid = true
  stackBound : s.stack.length ≤ s.config.stackDepth
  returnBound : ∀ a ∈ s.stack, a.toNat ≤ 0x1000
  pcBound : s.pc.toNat ≤ 0x10FE
  latchWaits : s.waitLatch ≠ none → s.awaiting = true ∧ s.config.keyWaitMode = .edge
  trackedDown : ∀ k, s.lastPressed = some k → s.keyDown k = true
  memCanonical : Memory.wf s.unlisted s.mem

/-- The core takes instructions: no fault latched, no key awaited (spec/40_cycle.md R90). -/
def State.Ready (s : State) : Prop := s.fault = none ∧ s.awaiting = false

/-- The next event is no Reset. -/
def State.NoReset (s : State) : Prop := ∀ image cfg rest, s.schedule ≠ .reset image cfg :: rest

/-- `t` has the general registers of `s` but for those of `changed`. -/
def SameVBut (changed : RegIdx → Prop) (s t : State) : Prop := ∀ r, ¬ changed r → t.readV r = s.readV r

/-- `t` has the bytes of `s` but for those of `changed`. -/
def SameBytesBut (changed : Nat → Prop) (s t : State) : Prop :=
  ∀ a, ¬ changed a → t.readByte a = s.readByte a

/-- `t` differs from `s` in the general registers at most. -/
def OnlyV (s t : State) : Prop := t = { s with v := t.v }

/-- `t` differs from `s` in memory at most. -/
def OnlyMem (s t : State) : Prop := t = { s with mem := t.mem }

/-- The kind of fault that executing `d` on `s` raises, none where it raises none: the table of
spec/60_exceptions.md R200 with the conditions of R202 and R203. -/
def faultCause (s : State) : Decoded → Option FaultKind
  | .unknown _ => if s.config.unknownPolicy = .fault then some .unknownOpcode else none
  | .known (.call _) => if s.stack.length = s.config.stackDepth then some .stackOverflow else none
  | .known .ret => if s.stack.length = 0 then some .stackUnderflow else none
  | .known (.ldB _) => if s.i.toNat ≥ 0xFFE then some .memoryOutOfBounds else none
  | .known (.ldMemVx x) => if s.i.toNat + x.toNat > 0xFFF then some .memoryOutOfBounds else none
  | .known (.ldVxMem x) => if s.i.toNat + x.toNat > 0xFFF then some .memoryOutOfBounds else none
  | .known (.drw _ _ n) =>
    if n.toNat ≥ 1 ∧ s.i.toNat + n.toNat - 1 > 0xFFF then some .memoryOutOfBounds else none
  | .known _ => none

/-- The columns V and VF of the access table of spec/10_state.md R40: the registers an instruction may
write. -/
def mayWriteV (cfg : Config) (r : RegIdx) : Instr → Bool
  | .ldImm x _ => r == x
  | .addImm x _ => r == x
  | .ldReg x _ => r == x
  | .orReg x _ => r == x || (r == 15 && cfg.qLogicVfReset)
  | .andReg x _ => r == x || (r == 15 && cfg.qLogicVfReset)
  | .xorReg x _ => r == x || (r == 15 && cfg.qLogicVfReset)
  | .addReg x _ => r == x || r == 15
  | .sub x _ => r == x || r == 15
  | .shr x _ => r == x || r == 15
  | .subn x _ => r == x || r == 15
  | .shl x _ => r == x || r == 15
  | .rnd x _ => r == x
  | .drw _ _ _ => r == 15
  | .ldVxDt x => r == x
  | .ldVxMem x => decide (r.toNat ≤ x.toNat)
  | _ => false

/-- The column I of the access table of R40. -/
def mayWriteI (cfg : Config) : Instr → Bool
  | .ldI _ => true
  | .addI _ => true
  | .ldF _ => true
  | .ldMemVx _ => cfg.qMemIncI
  | .ldVxMem _ => cfg.qMemIncI
  | _ => false

/-- The column pc of the access table of R40. -/
def mayWritePc : Instr → Bool
  | .ret => true
  | .jp _ => true
  | .call _ => true
  | .jpOff _ _ => true
  | .seImm _ _ => true
  | .sneImm _ _ => true
  | .seReg _ _ => true
  | .sneReg _ _ => true
  | .skp _ => true
  | .sknp _ => true
  | _ => false

/-- The instructions whose rules raise a fault (spec/60_exceptions.md R202, R203). -/
def mayRaise : Instr → Bool
  | .ret => true
  | .call _ => true
  | .ldB _ => true
  | .ldMemVx _ => true
  | .ldVxMem _ => true
  | .drw _ _ _ => true
  | _ => false

/-- What OR, AND and XOR have in common (spec/42_alu.md R133 to R135): the bits of the result are `bit` of
the operands' bits, VF is 0 under Q_LOGIC_VF_RESET whatever the destination, and nothing else changes. -/
def LogicResult (s : State) (x y : RegIdx) (bit : Bool → Bool → Bool) (o : StepOutcome) : Prop :=
  ∃ t, o = .next t ∧ OnlyV s t ∧
    SameVBut (fun r => r = x ∨ (r = 15 ∧ s.config.qLogicVfReset = true)) s t ∧
    (¬ (x = 15 ∧ s.config.qLogicVfReset = true) → ∀ k, k < 8 →
      (t.readV x).getLsbD k = bit ((s.readV x).getLsbD k) ((s.readV y).getLsbD k)) ∧
    (s.config.qLogicVfReset = true → t.readV 15 = 0)

/-- A set bit of the `n`-row sprite at I, drawn from column `x0` and row `y0`, falls on pixel `(px, py)`:
row `r` is the byte at I + r, bit 7 is its leftmost pixel, and a pixel past an edge wraps or is dropped
(spec/44_display.md R166). -/
def SpriteCovers (s : State) (x0 y0 n : Nat) (px : Fin 64) (py : Fin 32) : Prop :=
  ∃ r c : Nat, r < n ∧ c < 8 ∧ (s.readByte (s.i.toNat + r)).getLsbD (7 - c) = true ∧
    if s.config.qDrawWrap then (x0 + c) % 64 = px.val ∧ (y0 + r) % 32 = py.val
    else x0 + c = px.val ∧ y0 + r = py.val

/-- DRW's bound: it reads no byte, or all its bytes are inside memory (R166, R202). -/
def SpriteInBounds (s : State) (n : Nibble) : Prop := n.toNat = 0 ∨ s.i.toNat + n.toNat - 1 ≤ 0xFFF

end Sys2Proof.Machine
end

