-- ==== Sys2Proof/Certificates/Slice0/Obligations.lean ====
section
/-! DEFINITION. The statements for the provers. Each docstring names the rule or section of spec/ it
formalises; where a clause rests on a point the spec closes by its own decision, or on an entry of the
assumption log, the docstring says so. -/

open Sys2Proof Sys2Proof.Machine

/-! ## Encoding and decoding (spec/30_encoding.md) -/

/-- R82: the five words the source document shows, decoded whatever the configuration. -/
def Obligations.DocumentWordsDecode : Prop :=
  ∀ cfg : Config,
    decode cfg 0x600A = .known (.ldImm 0 0x0A) ∧ decode cfg 0x6105 = .known (.ldImm 1 0x05) ∧
    decode cfg 0x8014 = .known (.addReg 0 1) ∧ decode cfg 0x2204 = .known (.call 0x204) ∧
    decode cfg 0x00EE = .known .ret

/-- The encoding section (its map is the spec's decision D10): decoding the word of a well-formed
instruction gives it back, every operand included, through words and through bytes. -/
def Obligations.DecodeOfEncodeIsIdentity : Prop :=
  ∀ (cfg : Config) (i : Instr) (rest : List Byte), i.wellFormed cfg = true →
    decode cfg (encode i) = .known i ∧ decodeBytes cfg (encodeBytes i ++ rest) = some (.known i, rest)

/-- The encoding section (decision D10): each word has one meaning, so the other direction holds too. -/
def Obligations.EncodeOfDecodeIsIdentity : Prop :=
  ∀ (cfg : Config) (w : Word) (i : Instr), decode cfg w = .known i →
    i.wellFormed cfg = true ∧ encode i = w

/-- The encoding section (decision D10): no word matches two rows of the opcode map. -/
def Obligations.OpcodeRowsAreDisjoint : Prop :=
  opcodeRows.Pairwise fun r r' => ∀ w : Word, ¬ (r.matches w = true ∧ r'.matches w = true)

/-- The UNKNOWN space (decision D11), written out from its table: a word is UNKNOWN exactly when it is one
of these, and then it carries the raw word. -/
def Obligations.UnknownWordsAreExactlyThese : Prop :=
  ∀ (cfg : Config) (w : Word),
    let n := w.toNat % 16
    let nn := w.toNat % 256
    decode cfg w = .unknown w ↔
      (w.toNat ≤ 0x0FFF ∧ w.toNat ≠ 0x00E0 ∧ w.toNat ≠ 0x00EE) ∨
      (w.toNat / 4096 = 0x5 ∧ n ≠ 0) ∨
      (w.toNat / 4096 = 0x8 ∧ n ∈ [0x8, 0x9, 0xA, 0xB, 0xC, 0xD, 0xF]) ∨
      (w.toNat / 4096 = 0x9 ∧ n ≠ 0) ∨
      (w.toNat / 4096 = 0xE ∧ nn ∉ [0x9E, 0xA1]) ∨
      (w.toNat / 4096 = 0xF ∧ nn ∉ [0x07, 0x0A, 0x15, 0x18, 0x1E, 0x29, 0x33, 0x55, 0x65])

/-- The decoder (decision D44): the configuration changes nothing but JP_OFF's offset register, which is
V0 or the register of the high nibble. -/
def Obligations.QuirksTouchOnlyTheJumpOffset : Prop :=
  ∀ (cfg cfg' : Config) (w : Word),
    (w.toNat / 4096 ≠ 0xB → decode cfg w = decode cfg' w) ∧
    (w.toNat / 4096 = 0xB → ∃ nnn r, decode cfg w = .known (.jpOff nnn r) ∧
      nnn.toNat = w.toNat % 4096 ∧ r.toNat = if cfg.qJumpVx then w.toNat / 256 % 16 else 0)

/-! ## The cycle (spec/40_cycle.md) -/

/-- R54: the word at `pc` is big-endian; the document's bytes 60 0A are the word 0x600A. -/
def Obligations.FetchIsBigEndian : Prop :=
  ∀ s : State, s.pc.toNat + 1 ≤ 0xFFF →
    ∃ w : Word, s.fetch = some w ∧
      w.toNat = 256 * (s.readByte s.pc.toNat).toNat + (s.readByte (s.pc.toNat + 1)).toNat ∧
      (s.readByte s.pc.toNat = 0x60 → s.readByte (s.pc.toNat + 1) = 0x0A → w = 0x600A)

/-- The sections on fetch, decode, advance and dispatch: when the bytes at `pc` decode to a well-formed
instruction, the step is exec of it on the state with `last_inst` written and `pc` past its two bytes,
both where the host's schedule names no event (log entry 4) and where it names a Cycle with its byte. -/
def Obligations.StepRunsTheDecodedInstruction : Prop :=
  ∀ (s : State) (i : Instr) (w : Word), s.Ready → s.pc.toNat + 1 ≤ 0xFFF →
    w = wordOfBytes (s.readByte s.pc.toNat) (s.readByte (s.pc.toNat + 1)) →
    decodeBytes s.config [s.readByte s.pc.toNat, s.readByte (s.pc.toNat + 1)] = some (.known i, []) →
    i.wellFormed s.config = true →
    (s.schedule = [] →
      step s = exec i { s with lastInst := some (w, .known i), pc := s.pc + 2, randIn := none }) ∧
    (∀ b rest, s.schedule = .cycle b :: rest →
      step s = exec i
        { s with lastInst := some (w, .known i), pc := s.pc + 2, randIn := some b, schedule := rest })

/-- The section on the cycle: its order. A latched fault: nothing changes. A key awaited: the key-wait
check alone. `pc` outside memory: MemoryOutOfBounds with `pc` kept and no word (decisions D29, D33, D34; as
a NEXT state, log entry 7). Otherwise the big-endian word is decoded, `last_inst` and `pc` are written, and
the decoded form is executed. The field `randIn` that the last clause writes is the model's own (log entry
5). -/
def Obligations.CycleFollowsItsOrder : Prop :=
  ∀ (rand : Option Byte) (s : State),
    (s.fault ≠ none → cycle rand s = .next s) ∧
    (s.fault = none → s.awaiting = true → cycle rand s = .next (keyWaitCheck s)) ∧
    (s.Ready → s.pc.toNat + 1 > 0xFFF →
      cycle rand s = .next { s with fault := some ⟨.memoryOutOfBounds, s.pc, none⟩ }) ∧
    (s.Ready → s.pc.toNat + 1 ≤ 0xFFF → ∀ w,
      w = wordOfBytes (s.readByte s.pc.toNat) (s.readByte (s.pc.toNat + 1)) →
      cycle rand s = execute (decode s.config w)
        { s with lastInst := some (w, decode s.config w), pc := s.pc + 2, randIn := rand })

/-- The key-wait check in level mode (the spec's decisions D22, D23): blocked while no key is tracked;
otherwise the awaited register receives the key number, the block clears, and nothing else changes, so
nothing is fetched. -/
def Obligations.LevelWaitEndsOnATrackedKey : Prop :=
  ∀ (rand : Option Byte) (s : State), s.fault = none → s.awaiting = true →
    s.config.keyWaitMode = .level →
    (s.lastPressed = none → cycle rand s = .next s) ∧
    (∀ k, s.lastPressed = some k → ∃ t, cycle rand s = .next t ∧
      (t.readV s.waitReg).toNat = k.toNat ∧ SameVBut (fun r => r = s.waitReg) s t ∧
      t.awaiting = false ∧ t = { s with v := t.v, awaiting := false })

/-- R93: the key-wait check in edge mode consumes the latch, which the first press of a key that was up
sets during the wait. -/
def Obligations.EdgeWaitEndsOnALatchedKey : Prop :=
  ∀ (rand : Option Byte) (s : State), s.fault = none → s.awaiting = true →
    s.config.keyWaitMode = .edge →
    (s.waitLatch = none → cycle rand s = .next s) ∧
    (∀ k, s.waitLatch = some k → ∃ t, cycle rand s = .next t ∧
      (t.readV s.waitReg).toNat = k.toNat ∧ SameVBut (fun r => r = s.waitReg) s t ∧
      t.awaiting = false ∧ t.waitLatch = none ∧
      t = { s with v := t.v, awaiting := false, waitLatch := none }) ∧
    (∀ k, (keyPress k s).waitLatch =
      if s.waitLatch = none ∧ s.keyDown k = false then some k else s.waitLatch) ∧
    (∀ k, (keyRelease k s).waitLatch = s.waitLatch)

/-! ## Control transfer (spec/41_flow.md) -/

/-- The RET section: RET pops the last return address into `pc` unchecked, so that one of 0xFFF or above
faults at the next fetch; on an empty stack it raises StackUnderflow and writes nothing else. The two fault
records and their being NEXT states are the model's reading (log entry 7, of decisions D32 to D34), the
record of the fetch fault is decision D29's. -/
def Obligations.ReturnPopsTheStack : Prop :=
  (∀ (s : State) (rest : List Word) (a : Word), s.stack = rest ++ [a] →
    exec .ret s = .next { s with pc := a, stack := rest }) ∧
  (∀ s : State, s.stack = [] → exec .ret s =
    .next { s with fault := some ⟨.stackUnderflow, s.pc - 2, s.lastInst.map (·.1)⟩ }) ∧
  (∀ (rand : Option Byte) (s : State) (rest : List Word) (a : Word), s.Ready → s.stack = rest ++ [a] →
    a.toNat ≥ 0xFFF → ∃ t, exec .ret s = .next t ∧
      cycle rand t = .next { t with fault := some ⟨.memoryOutOfBounds, a, none⟩ })

/-- The CALL section: CALL pushes the advanced `pc` and goes to `nnn`; on a full stack it raises
StackOverflow and writes nothing else. The fault record and its being a NEXT state are the model's reading
(log entry 7, of decisions D32 to D34). -/
def Obligations.CallPushesTheReturnAddress : Prop :=
  (∀ (s : State) (nnn : Addr12), s.stack.length ≠ s.config.stackDepth → ∃ t,
    exec (.call nnn) s = .next t ∧ t.pc.toNat = nnn.toNat ∧ t.stack = s.stack ++ [s.pc] ∧
    t = { s with pc := t.pc, stack := t.stack }) ∧
  (∀ (s : State) (nnn : Addr12), s.stack.length = s.config.stackDepth → exec (.call nnn) s =
    .next { s with fault := some ⟨.stackOverflow, s.pc - 2, s.lastInst.map (·.1)⟩ })

/-- The section on control transfer in general and the call stack (LIFO): a RET right after a CALL gives
back the state before the CALL. -/
def Obligations.ReturnUndoesCall : Prop :=
  ∀ (s : State) (nnn : Addr12), s.stack.length ≠ s.config.stackDepth →
    ∃ t, exec (.call nnn) s = .next t ∧ exec .ret t = .next s

/-- The JP section: JP puts the zero-extended address in `pc` and changes nothing else; the target 0xFFF
faults at the next fetch (the bound and the record are decisions D29, D33, D34, the NEXT state is log entry
7). -/
def Obligations.JumpGoesToTheAddress : Prop :=
  (∀ (s : State) (nnn : Addr12), ∃ t, exec (.jp nnn) s = .next t ∧ t.pc.toNat = nnn.toNat ∧
    t = { s with pc := t.pc }) ∧
  (∀ (rand : Option Byte) (s : State), s.Ready → ∃ t, exec (.jp 0xFFF) s = .next t ∧
    cycle rand t = .next { t with fault := some ⟨.memoryOutOfBounds, 0xFFF, none⟩ })

/-- The JP_OFF section (decisions D30, D44): the sum of the address and the offset register, not reduced
modulo 4096. -/
def Obligations.JumpOffsetIsNotReduced : Prop :=
  ∀ (s : State) (nnn : Addr12) (r : RegIdx), ∃ t, exec (.jpOff nnn r) s = .next t ∧
    t.pc.toNat = nnn.toNat + (s.readV r).toNat ∧ t = { s with pc := t.pc }

/-- The sections on SE_IMM, SNE_IMM, SE_REG, SNE_REG (general knowledge G9, decision D49): `pc` moves by 2
more exactly when the comparison holds; nothing else changes. -/
def Obligations.SkipsPassOneInstruction : Prop :=
  ∀ (s : State) (x y : RegIdx) (nn : Byte),
    exec (.seImm x nn) s = .next { s with pc := if s.readV x = nn then s.pc + 2 else s.pc } ∧
    exec (.sneImm x nn) s = .next { s with pc := if s.readV x = nn then s.pc else s.pc + 2 } ∧
    exec (.seReg x y) s = .next { s with pc := if s.readV x = s.readV y then s.pc + 2 else s.pc } ∧
    exec (.sneReg x y) s = .next { s with pc := if s.readV x = s.readV y then s.pc else s.pc + 2 }

/-- The sections on SKP and SKNP (decisions D20, D21, D49): the key is the register's low nibble, and
what counts as pressed is the tracked key or the key's flag, by KEY_SKIP_SOURCE. -/
def Obligations.KeySkipsConsultTheSource : Prop :=
  ∀ (s : State) (x : RegIdx) (k : Key), k.toNat = (s.readV x).toNat % 16 →
    (s.config.keySkipSource = .lastPressed →
      exec (.skp x) s = .next { s with pc := if s.lastPressed = some k then s.pc + 2 else s.pc } ∧
      exec (.sknp x) s = .next { s with pc := if s.lastPressed = some k then s.pc else s.pc + 2 }) ∧
    (s.config.keySkipSource = .flags →
      exec (.skp x) s = .next { s with pc := if s.keyDown k then s.pc + 2 else s.pc } ∧
      exec (.sknp x) s = .next { s with pc := if s.keyDown k then s.pc else s.pc + 2 })

/-! ## Arithmetic and logic (spec/42_alu.md) -/

/-- R130: LD_IMM puts the byte in the register and changes nothing else, VF included. -/
def Obligations.LoadImmediateSetsTheRegister : Prop :=
  ∀ (s : State) (x : RegIdx) (nn : Byte), ∃ t, exec (.ldImm x nn) s = .next t ∧
    t.readV x = nn ∧ SameVBut (fun r => r = x) s t ∧ OnlyV s t

/-- The sections on ADD_IMM and LD_REG (general knowledge G11, decision D17): the sum modulo 256 with no
flag, and the copy. -/
def Obligations.AddImmediateAndCopy : Prop :=
  ∀ (s : State) (x y : RegIdx) (nn : Byte),
    (∃ t, exec (.addImm x nn) s = .next t ∧
      (t.readV x).toNat = ((s.readV x).toNat + nn.toNat) % 256 ∧ SameVBut (fun r => r = x) s t ∧
      OnlyV s t) ∧
    (∃ t, exec (.ldReg x y) s = .next t ∧ t.readV x = s.readV y ∧ SameVBut (fun r => r = x) s t ∧
      OnlyV s t)

/-- The sections on OR, AND, XOR (general knowledge G11, decision D15 for the order of writes): bit by bit
results; VF is 0 under Q_LOGIC_VF_RESET, whatever the destination, and an ordinary register without. -/
def Obligations.LogicWorksBitByBit : Prop :=
  ∀ (s : State) (x y : RegIdx),
    LogicResult s x y Bool.or (exec (.orReg x y) s) ∧ LogicResult s x y Bool.and (exec (.andReg x y) s) ∧
    LogicResult s x y Bool.xor (exec (.xorReg x y) s)

/-- The section on ADD_REG (general knowledge G11, decision D15): result and carry together are the sum;
with destination VF the carry remains. -/
def Obligations.AddRegisterKeepsTheCarry : Prop :=
  ∀ (s : State) (x y : RegIdx), ∃ t, exec (.addReg x y) s = .next t ∧ OnlyV s t ∧
    SameVBut (fun r => r = x ∨ r = 15) s t ∧
    (x ≠ 15 → (t.readV x).toNat = ((s.readV x).toNat + (s.readV y).toNat) % 256) ∧
    (t.readV 15).toNat = ((s.readV x).toNat + (s.readV y).toNat) / 256

/-- The sections on SUB and SUBN (general knowledge G11, decisions D15, D16): the difference modulo 256,
and VF 1 exactly where there is no borrow, equal operands included. -/
def Obligations.SubtractionReportsNoBorrow : Prop :=
  ∀ (s : State) (x y : RegIdx),
    (∃ t, exec (.sub x y) s = .next t ∧ OnlyV s t ∧ SameVBut (fun r => r = x ∨ r = 15) s t ∧
      (x ≠ 15 → (t.readV x).toNat = ((s.readV x).toNat + 256 - (s.readV y).toNat) % 256) ∧
      (t.readV 15).toNat = if (s.readV x).toNat ≥ (s.readV y).toNat then 1 else 0) ∧
    (∃ t, exec (.subn x y) s = .next t ∧ OnlyV s t ∧ SameVBut (fun r => r = x ∨ r = 15) s t ∧
      (x ≠ 15 → (t.readV x).toNat = ((s.readV y).toNat + 256 - (s.readV x).toNat) % 256) ∧
      (t.readV 15).toNat = if (s.readV y).toNat ≥ (s.readV x).toNat then 1 else 0)

/-- The sections on SHR and SHL (general knowledge G11, decisions D14, D15): the value shifted comes from
V[y] or V[x] by Q_SHIFT_VY; VF is the bit shifted out of it. -/
def Obligations.ShiftsMoveByOne : Prop :=
  ∀ (s : State) (x y : RegIdx) (v : Nat),
    v = (if s.config.qShiftVy then s.readV y else s.readV x).toNat →
    (∃ t, exec (.shr x y) s = .next t ∧ OnlyV s t ∧ SameVBut (fun r => r = x ∨ r = 15) s t ∧
      (x ≠ 15 → (t.readV x).toNat = v / 2) ∧ (t.readV 15).toNat = v % 2) ∧
    (∃ t, exec (.shl x y) s = .next t ∧ OnlyV s t ∧ SameVBut (fun r => r = x ∨ r = 15) s t ∧
      (x ≠ 15 → (t.readV x).toNat = 2 * v % 256) ∧ (t.readV 15).toNat = v / 128)

/-- The section on RND (decision D26; log entry 5): the random byte under the mask, one byte consumed. Of
the byte nothing is said but that it is the one the Cycle event carried, where it carried one. -/
def Obligations.RandomByteIsMasked : Prop :=
  ∀ (s : State) (x : RegIdx) (nn : Byte), ∃ (t : State) (b : Byte), exec (.rnd x nn) s = .next t ∧
    (∀ c, s.randIn = some c → b = c) ∧ t.readV x = b &&& nn ∧
    (∀ k, nn.getLsbD k = false → (t.readV x).getLsbD k = false) ∧
    SameVBut (fun r => r = x) s t ∧ t.draws = s.draws + 1 ∧ t = { s with v := t.v, draws := t.draws }

/-! ## Index register and memory (spec/43_index_memory.md, spec/20_memory.md) -/

/-- The sections on LD_I, ADD_I, LD_F (general knowledge G13, decisions D18, D19): I modulo 65536, no flag,
nothing else changed. -/
def Obligations.IndexRegisterUpdates : Prop :=
  ∀ (s : State) (x : RegIdx) (nnn : Addr12),
    (∃ t, exec (.ldI nnn) s = .next t ∧ t.i.toNat = nnn.toNat ∧ t = { s with i := t.i }) ∧
    (∃ t, exec (.addI x) s = .next t ∧ t.i.toNat = (s.i.toNat + (s.readV x).toNat) % 65536 ∧
      t = { s with i := t.i }) ∧
    (∃ t, exec (.ldF x) s = .next t ∧
      t.i.toNat = (s.config.fontBase + 5 * ((s.readV x).toNat % 16)) % 65536 ∧ t = { s with i := t.i })

/-- The section on LD_B (decision D43): hundreds, tens and ones at I, I+1, I+2; every other byte, and I,
unchanged. -/
def Obligations.DecimalDigitsAreStored : Prop :=
  ∀ (s : State) (x : RegIdx), s.i.toNat + 2 ≤ 0xFFF → ∃ t, exec (.ldB x) s = .next t ∧
    (t.readByte s.i.toNat).toNat = (s.readV x).toNat / 100 ∧
    (t.readByte (s.i.toNat + 1)).toNat = (s.readV x).toNat / 10 % 10 ∧
    (t.readByte (s.i.toNat + 2)).toNat = (s.readV x).toNat % 10 ∧
    SameBytesBut (fun a => s.i.toNat ≤ a ∧ a < s.i.toNat + 3) s t ∧ OnlyMem s t

/-- The section on LD_MEM_VX (decision D42): V0 to Vx at I upwards; I grows by the length under
Q_MEM_INC_I; nothing else changes. -/
def Obligations.BlockStoreWritesItsRange : Prop :=
  ∀ (s : State) (x : RegIdx), s.i.toNat + x.toNat ≤ 0xFFF → ∃ t, exec (.ldMemVx x) s = .next t ∧
    (∀ r : RegIdx, r.toNat ≤ x.toNat → t.readByte (s.i.toNat + r.toNat) = s.readV r) ∧
    SameBytesBut (fun a => s.i.toNat ≤ a ∧ a < s.i.toNat + (x.toNat + 1)) s t ∧
    t.i.toNat = (if s.config.qMemIncI then (s.i.toNat + x.toNat + 1) % 65536 else s.i.toNat) ∧
    t = { s with mem := t.mem, i := t.i }

/-- The section on LD_VX_MEM (decision D42): the bytes at I upwards in V0 to Vx; I grows by the length
under Q_MEM_INC_I; nothing else changes, and no byte of memory. -/
def Obligations.BlockLoadReadsItsRange : Prop :=
  ∀ (s : State) (x : RegIdx), s.i.toNat + x.toNat ≤ 0xFFF → ∃ t, exec (.ldVxMem x) s = .next t ∧
    (∀ r : RegIdx, r.toNat ≤ x.toNat → t.readV r = s.readByte (s.i.toNat + r.toNat)) ∧
    SameVBut (fun r => r.toNat ≤ x.toNat) s t ∧
    t.i.toNat = (if s.config.qMemIncI then (s.i.toNat + x.toNat + 1) % 65536 else s.i.toNat) ∧
    t = { s with v := t.v, i := t.i }

/-- The sections on the block transfers: what LD_MEM_VX stored, LD_VX_MEM loads back from the same I,
whatever the registers hold then. -/
def Obligations.BlockLoadRestoresBlockStore : Prop :=
  ∀ (s t u : State) (x : RegIdx), s.i.toNat + x.toNat ≤ 0xFFF → exec (.ldMemVx x) s = .next t →
    u.mem = t.mem → u.config = t.config → u.i = s.i →
    ∃ u', exec (.ldVxMem x) u = .next u' ∧ ∀ r : RegIdx, r.toNat ≤ x.toNat → u'.readV r = s.readV r

/-- The section on memory accesses: a write changes memory alone, a byte reads as the last byte written
there and every other byte as before; in a fresh machine it reads as its reset content, the font table
(general knowledge G4, decision D4) or zero. -/
def Obligations.ByteReadsAsLastWritten : Prop :=
  (∀ (s : State) (a q : Nat) (b : Byte),
    (s.storeBytes a [b]).readByte q = (if q = a then b else s.readByte q) ∧
    OnlyMem s (s.storeBytes a [b])) ∧
  (∀ (cfg : Config) (a : Nat), (State.fresh cfg).readByte a =
    if cfg.fontBase ≤ a ∧ a < cfg.fontBase + 80 then fontTable.getD (a - cfg.fontBase) 0 else 0)

/-! ## Display (spec/44_display.md) -/

/-- R165: after CLS every pixel is unset, and nothing else changes, VF included. -/
def Obligations.ClearScreenUnsetsEveryPixel : Prop :=
  ∀ s : State, ∃ t, exec .cls s = .next t ∧ (∀ x y, t.display.px x y = false) ∧
    t.readV 15 = s.readV 15 ∧ t = { s with display := t.display }

/-- The DRW section (general knowledge G14, decisions D27, D28): exactly the covered pixels toggle, VF says
whether one of them was set, and nothing else changes. -/
def Obligations.DrawTogglesCoveredPixels : Prop :=
  ∀ (s : State) (x y : RegIdx) (n : Nibble), SpriteInBounds s n →
    ∃ t, exec (.drw x y n) s = .next t ∧
      (∀ px py, SpriteCovers s ((s.readV x).toNat % 64) ((s.readV y).toNat % 32) n.toNat px py →
        t.display.px px py = !s.display.px px py) ∧
      (∀ px py, ¬ SpriteCovers s ((s.readV x).toNat % 64) ((s.readV y).toNat % 32) n.toNat px py →
        t.display.px px py = s.display.px px py) ∧
      (t.readV 15 = 0 ∨ t.readV 15 = 1) ∧
      (t.readV 15 = 1 ↔ ∃ px py,
        SpriteCovers s ((s.readV x).toNat % 64) ((s.readV y).toNat % 32) n.toNat px py ∧
        s.display.px px py = true) ∧
      SameVBut (fun r => r = 15) s t ∧ t = { s with v := t.v, display := t.display }

/-- The section on drawing twice: for the same I, memory, coordinates and quirk the second draw restores
the display, and its flag says whether a covered pixel was unset before the first. -/
def Obligations.DrawingTwiceRestores : Prop :=
  ∀ (s t u : State) (x y : RegIdx) (n : Nibble), SpriteInBounds s n →
    exec (.drw x y n) s = .next t → u.display = t.display → u.i = s.i → u.mem = s.mem →
    u.config = s.config → u.readV x = s.readV x → u.readV y = s.readV y →
    ∃ u', exec (.drw x y n) u = .next u' ∧ u'.display = s.display ∧
      (u'.readV 15 = 1 ↔ ∃ px py,
        SpriteCovers s ((s.readV x).toNat % 64) ((s.readV y).toNat % 32) n.toNat px py ∧
        s.display.px px py = false)

/-! ## Keypad and timers (spec/45_keypad_timers.md, spec/60_exceptions.md) -/

/-- The section on LD_VX_K (general knowledge G15, decision D22): the wait begins, no V register is
written; the latch is cleared in edge mode. -/
def Obligations.KeyWaitBegins : Prop :=
  ∀ (s : State) (x : RegIdx), exec (.ldVxK x) s = .next { s with
    awaiting := true, waitReg := x,
    waitLatch := if s.config.keyWaitMode = .edge then none else s.waitLatch }

/-- The same section with the key-wait check, under both modes: after LD_VX_K, a press of key `k` (of a
key that was up, in edge mode) and one cycle leave `k` in the register, the block cleared and `pc` at the
instruction after the wait. -/
def Obligations.KeyPressEndsTheWait : Prop :=
  ∀ (s t : State) (x : RegIdx) (k : Key) (rand : Option Byte), s.fault = none →
    (s.config.keyWaitMode = .level ∨ s.keyDown k = false) → exec (.ldVxK x) s = .next t →
    ∃ u, cycle rand (keyPress k t) = .next u ∧ (u.readV x).toNat = k.toNat ∧ u.awaiting = false ∧
      u.pc = s.pc ∧ SameVBut (fun r => r = x) s u ∧ u.mem = s.mem

/-- R25: DT is read by LD_VX_DT, written by LD_DT_VX, decremented by Tick60 while above zero, and 0 at
reset; neither timer falls below zero. -/
def Obligations.DelayTimerIsReadWrittenAndTicked : Prop :=
  (∀ (s : State) (x : RegIdx), ∃ t, exec (.ldVxDt x) s = .next t ∧ t.readV x = s.dt ∧
    SameVBut (fun r => r = x) s t ∧ OnlyV s t) ∧
  (∀ (s : State) (x : RegIdx), exec (.ldDtVx x) s = .next { s with dt := s.readV x }) ∧
  (∀ s : State, s.fault = none →
    (tick60 s).dt.toNat = s.dt.toNat - 1 ∧ (tick60 s).st.toNat = s.st.toNat - 1) ∧
  (∀ cfg : Config, (State.fresh cfg).dt = 0 ∧ (State.fresh cfg).st = 0)

/-- The section on LD_ST_VX (general knowledge G15, decision D37; log entry 6): ST takes the value, and a
crossing between zero and nonzero sends its notification. -/
def Obligations.SoundTimerNotifiesOnCrossing : Prop :=
  ∀ (s : State) (x : RegIdx), exec (.ldStVx x) s = .next { s with
    st := s.readV x,
    sounds := s.sounds ++
      (if s.st = 0 then (if s.readV x = 0 then [] else [.start])
       else (if s.readV x = 0 then [.stop] else [])) }

/-- The section on Tick60 (decision D36; log entry 6): each counter falls by one, clamped at zero; ST
reaching zero sends SoundStop; nothing else changes, and nothing at all while a fault is latched. -/
def Obligations.TickDecrementsBothTimers : Prop :=
  ∀ s : State,
    (s.fault ≠ none → tick60 s = s) ∧
    (s.fault = none →
      (tick60 s).dt.toNat = s.dt.toNat - 1 ∧ (tick60 s).st.toNat = s.st.toNat - 1 ∧
      (tick60 s).sounds = s.sounds ++ (if s.st = 1 then [.stop] else []) ∧
      tick60 s = { s with dt := (tick60 s).dt, st := (tick60 s).st, sounds := (tick60 s).sounds })

/-- The section on the timers: `n` ticks with no cycle between take exactly `n` from each counter, clamped
at zero; sixty of them are one second. -/
def Obligations.TicksDecrementExactly : Prop :=
  ∀ (n : Nat) (s : State), s.fault = none →
    (tick60^[n] s).dt.toNat = s.dt.toNat - n ∧ (tick60^[n] s).st.toNat = s.st.toNat - n

/-- The section on sound notifications (decision D37; log entry 6), of the whole machine: whatever the
event but a Reset, a notification is sent exactly when ST crosses between zero and nonzero; a Reset sends
none, and the list it leaves is the one before (log entry 16). -/
def Obligations.SoundFollowsTheSoundTimer : Prop :=
  (∀ s t : State, s.NoReset → step s = .next t →
    t.sounds = s.sounds ++
      (if s.st = 0 ∧ t.st ≠ 0 then [.start] else if s.st ≠ 0 ∧ t.st = 0 then [.stop] else [])) ∧
  (∀ (s t : State) (image : List Byte) (cfg : Config) (rest : List Event),
    s.schedule = .reset image cfg :: rest → step s = .next t → t.sounds = s.sounds)

/-- The sections on KeyPress and KeyRelease (decision D24): the key's own flag, the tracked key and, in
edge mode, the latch; nothing else. -/
def Obligations.KeyEventsTrackTheKeypad : Prop :=
  ∀ (s : State) (k j : Key),
    (keyPress k s).keyDown j = (decide (j = k) || s.keyDown j) ∧
    (keyPress k s).lastPressed = some k ∧
    (keyPress k s).waitLatch =
      (if s.config.keyWaitMode = .edge ∧ s.awaiting = true ∧ s.waitLatch = none ∧ s.keyDown k = false
        then some k else s.waitLatch) ∧
    keyPress k s = { s with
      keys := (keyPress k s).keys, lastPressed := (keyPress k s).lastPressed,
      waitLatch := (keyPress k s).waitLatch } ∧
    (keyRelease k s).keyDown j = (!decide (j = k) && s.keyDown j) ∧
    (keyRelease k s).lastPressed = (if s.lastPressed = some k then none else s.lastPressed) ∧
    keyRelease k s = { s with
      keys := (keyRelease k s).keys, lastPressed := (keyRelease k s).lastPressed }

/-! ## Faults (spec/60_exceptions.md) -/

/-- The sections on the fault table, the priority and the fault entry (decisions D32 to D34; as a NEXT
state, log entry 7): a cycle that
fetches a word latches a fault exactly when its cause holds, and then the record is the kind, the fetch
address and the word, and nothing but `last_inst`, `pc` and the cycle's random byte (log entry 5) has
changed. -/
def Obligations.FaultsArePrecise : Prop :=
  ∀ (rand : Option Byte) (s : State) (w : Word), s.Ready → s.fetch = some w →
    (∀ k, faultCause s (decode s.config w) = some k →
      cycle rand s = .next { s with
        lastInst := some (w, decode s.config w), pc := s.pc + 2, randIn := rand,
        fault := some ⟨k, s.pc, some w⟩ }) ∧
    (faultCause s (decode s.config w) = none → ∃ t, cycle rand s = .next t ∧ t.fault = none)

/-- The sections on the fault gate and on faults having no return (decision D33): while a fault is latched
neither a cycle nor a tick changes anything, and a step only takes its event from the schedule. -/
def Obligations.FaultedCoreStandsStill : Prop :=
  ∀ (rand : Option Byte) (s : State), s.fault ≠ none →
    cycle rand s = .next s ∧ tick60 s = s ∧
    (s.schedule = [] → step s = .next s) ∧
    (∀ b rest, s.schedule = .cycle b :: rest → step s = .next { s with schedule := rest }) ∧
    (∀ rest, s.schedule = .tick60 :: rest → step s = .next { s with schedule := rest })

/-- The section on UNKNOWN (decision D35): under `fault` the record is UnknownOpcode with the fetch address
and the word; under `skip` only the common part of the cycle happens. -/
def Obligations.UnknownWordFaultsOrIsSkipped : Prop :=
  ∀ (rand : Option Byte) (s : State) (w : Word), s.Ready → s.fetch = some w →
    decode s.config w = .unknown w →
    (s.config.unknownPolicy = .fault → cycle rand s = .next { s with
      lastInst := some (w, .unknown w), pc := s.pc + 2, randIn := rand,
      fault := some ⟨.unknownOpcode, s.pc, some w⟩ }) ∧
    (s.config.unknownPolicy = .skip → cycle rand s = .next { s with
      lastInst := some (w, .unknown w), pc := s.pc + 2, randIn := rand })

/-! ## Whole-machine rules (spec/10_state.md) -/

/-- The access table, all columns but V: each instruction writes only the state its row names; the fault
latch only where its rule raises a fault (log entry 7); no instruction writes the keypad flags, the tracked
key, `last_inst`, the configuration or the sequencer's accumulators. The clauses on `sounds`, `draws`,
`schedule` and `randIn` are no columns of the table: these fields are the model's own (log entries 4, 5,
6). -/
def Obligations.WritesFollowTheAccessTable : Prop :=
  ∀ (i : Instr) (s t : State), exec i s = .next t →
    (t.mem ≠ s.mem → ∃ x, i = .ldB x ∨ i = .ldMemVx x) ∧
    (t.display ≠ s.display → i = .cls ∨ ∃ x y n, i = .drw x y n) ∧
    (t.stack ≠ s.stack → i = .ret ∨ ∃ nnn, i = .call nnn) ∧
    (t.pc ≠ s.pc → mayWritePc i = true) ∧
    (t.fault ≠ s.fault → mayRaise i = true) ∧
    (t.i ≠ s.i → mayWriteI s.config i = true) ∧
    (t.dt ≠ s.dt → ∃ x, i = .ldDtVx x) ∧
    (t.st ≠ s.st ∨ t.sounds ≠ s.sounds → ∃ x, i = .ldStVx x) ∧
    (t.draws ≠ s.draws → ∃ x nn, i = .rnd x nn) ∧
    (t.awaiting ≠ s.awaiting ∨ t.waitReg ≠ s.waitReg ∨ t.waitLatch ≠ s.waitLatch →
      ∃ x, i = .ldVxK x) ∧
    t.keys = s.keys ∧ t.lastPressed = s.lastPressed ∧ t.lastInst = s.lastInst ∧
    t.config = s.config ∧ t.cpuAcc = s.cpuAcc ∧ t.tmrAcc = s.tmrAcc ∧ t.schedule = s.schedule ∧
    t.randIn = s.randIn

/-- The access table, columns V and VF: a general register changes only where the instruction names it as
a destination or writes VF as its flag. -/
def Obligations.RegistersChangeOnlyAsDestinations : Prop :=
  ∀ (i : Instr) (s t : State) (r : RegIdx), exec i s = .next t → t.readV r ≠ s.readV r →
    mayWriteV s.config r i = true

/-- The section on the configuration: it is immutable after construction; a Reset event supplies it
anew. -/
def Obligations.ConfigurationIsImmutable : Prop :=
  (∀ s t : State, s.NoReset → step s = .next t → t.config = s.config) ∧
  (∀ (s t : State) (image : List Byte) (cfg : Config) (rest : List Event),
    s.schedule = .reset image cfg :: rest → step s = .next t → t.config = cfg) ∧
  (∀ (i : Instr) (s t : State), exec i s = .next t → t.config = s.config)

/-- No instruction and no event but a refused Reset ends the machine: every one answers a next state
(spec/40_cycle.md, spec/60_exceptions.md; the faults of a cycle latch, log entry 7). A Reset is refused
where its configuration is invalid or its image longer than 3584 bytes (log entry 10), and completes
otherwise. -/
def Obligations.EveryEventCompletes : Prop :=
  (∀ (i : Instr) (s : State), ∃ t, exec i s = .next t) ∧
  (∀ s : State, s.NoReset → ∃ t, step s = .next t) ∧
  (∀ (s : State) (image : List Byte) (cfg : Config) (rest : List Event),
    s.schedule = .reset image cfg :: rest → cfg.valid = true → image.length ≤ 3584 →
    ∃ t, step s = .next t)

/-- The invariant section: the reset state meets the invariant. -/
def Obligations.ResetMeetsTheInvariant : Prop := State.reset.Inv

/-- The invariant section: every step from a state that meets the invariant gives one that meets it,
whatever the event, a Reset included. -/
def Obligations.StepKeepsTheInvariant : Prop :=
  ∀ s t : State, s.Inv → step s = .next t → t.Inv

/-! ## Reset (spec/70_reset_and_hazards.md) -/

/-- The reset section and the reset table (decisions D3, D4, D8, D9, D33, D38; log entries 2, 3, 16): the
state a Reset constructs, and that State.reset is the one of the empty image (log entry 1). That the
accumulators are 0 is the step sequencer's section (decision D39, log entry 11). -/
def Obligations.ResetBuildsTheFreshState : Prop :=
  ∀ (image : List Byte) (cfg : Config) (s : State), cfg.valid = true → image.length ≤ 3584 →
    (∃ t, resetMachine image cfg s = .next t ∧ t.pc = 0x200 ∧ t.stack = [] ∧ t.dt = 0 ∧ t.st = 0 ∧
      (∀ x y, t.display.px x y = false) ∧ (∀ r, t.readV r = 0) ∧ t.i = 0 ∧
      (∀ k, t.keyDown k = false) ∧ t.lastPressed = none ∧ t.awaiting = false ∧ t.waitLatch = none ∧
      t.fault = none ∧ t.lastInst = none ∧ t.config = cfg ∧ t.cpuAcc = 0 ∧ t.tmrAcc = 0 ∧
      (∀ a, t.readByte a =
        if h : 0x200 ≤ a ∧ a < 0x200 + image.length then image[a - 0x200]'(by omega)
        else if cfg.fontBase ≤ a ∧ a < cfg.fontBase + 80 then fontTable.getD (a - cfg.fontBase) 0
        else 0)) ∧
    resetMachine [] Config.atReset State.reset = .next State.reset

/-- R241: an image of at most 3584 bytes loads at 0x200, its last byte at 0xFFF where it has 3584; one
byte more fails with LoadError. -/
def Obligations.LoadBoundaryIsExact : Prop :=
  ∀ (image : List Byte) (cfg : Config) (s : State), cfg.valid = true →
    (image.length ≤ 3584 → ∃ t, resetMachine image cfg s = .next t ∧
      (∀ k (h : k < image.length), t.readByte (0x200 + k) = image[k]) ∧
      (∀ h : image.length = 3584, t.readByte 0xFFF = image[3583])) ∧
    (image.length > 3584 → resetMachine image cfg s = .fault .loadError)

/-- The reset section (decisions D3, D6; log entry 10): a configuration that breaks a condition is
refused, whatever the image. -/
def Obligations.InvalidConfigurationIsRefused : Prop :=
  ∀ (image : List Byte) (cfg : Config) (s : State),
    ¬ (cfg.stackDepth ≥ 1 ∧ cfg.fontBase + 80 ≤ 0x200 ∧ cfg.cpuHz > 0) →
    resetMachine image cfg s = .refused .invalidConfig

/-- The font section (general knowledge G4, decisions D3, D4) with the section on LD_F (general knowledge
G13; decision D19 and log entry 13's U8 for a register above 15, whose low nibble selects the glyph): where
the 80 font bytes read as at reset, whatever else memory holds, LD_F points I at the five bytes of the
digit's glyph, whose low nibbles are zero. -/
def Obligations.GlyphsStandWhereIPoints : Prop :=
  ∀ (s : State) (x : RegIdx), s.config.valid = true →
    (∀ a, s.config.fontBase ≤ a → a < s.config.fontBase + 80 →
      s.readByte a = fontTable.getD (a - s.config.fontBase) 0) →
    ∃ t, exec (.ldF x) s = .next t ∧ ∀ k, k < 5 →
      t.readByte (t.i.toNat + k) = fontTable.getD (5 * ((s.readV x).toNat % 16) + k) 0 ∧
      (t.readByte (t.i.toNat + k)).toNat % 16 = 0

/-! ## Step call and queries -/

/-- The step sequencer (decision D39; log entry 11): the counts and the remainders of a budget add up, the
remainders stay below one, and one second is exactly sixty ticks. -/
def Obligations.BudgetLosesNoTime : Prop :=
  ∀ (s : State) (budget : Rat), 0 ≤ budget → 0 ≤ s.cpuAcc → s.cpuAcc < 1 → 0 ≤ s.tmrAcc →
    s.tmrAcc < 1 → 0 < s.config.cpuHz →
    let r := s.splitBudget budget
    ((r.1 : Rat) + r.2.2.cpuAcc = s.cpuAcc + budget * s.config.cpuHz) ∧
    ((r.2.1 : Rat) + r.2.2.tmrAcc = s.tmrAcc + budget * 60) ∧
    0 ≤ r.2.2.cpuAcc ∧ r.2.2.cpuAcc < 1 ∧ 0 ≤ r.2.2.tmrAcc ∧ r.2.2.tmrAcc < 1 ∧
    (budget = 1 → r.2.1 = 60) ∧ r.2.2 = { s with cpuAcc := r.2.2.cpuAcc, tmrAcc := r.2.2.tmrAcc }

/-- The end of a step call (decision D40; log entry 11): once a cycle has left a key awaited and no fault,
the remaining cycles of the call are dropped and all its ticks are still sent, whatever the order of what
remains and whatever ticks came before that cycle. -/
def Obligations.BlockedCallStillTicks : Prop :=
  (∀ (before : Nat) (rest : List SeqEvent) (s s' : State),
    cycle none (tick60^[before] s) = .next s' → s'.fault = none → s'.awaiting = true →
    runCall (List.replicate before .tick ++ .cycle :: rest) false s =
      .ended .keyWait (tick60^[rest.count .tick] s')) ∧
  (∀ (order : List SeqEvent) (s : State),
    runCall order true s = .ended .keyWait (tick60^[order.count .tick] s))

/-- R220: DisplayRead returns the 2048 pixels, element y*64 + x being px[x][y], and the constants 64 and
32. -/
def Obligations.DisplayReadIsRowMajor : Prop :=
  ∀ s : State, (displayRead s).pixels.length = 2048 ∧ (displayRead s).width = 64 ∧
    (displayRead s).height = 32 ∧
    ∀ (x : Fin 64) (y : Fin 32), (displayRead s).pixels[y.val * 64 + x.val]? = some (s.display.px x y)

/-- R221: DebugDump returns the registers, I, pc, the timers, the stack oldest first, the 4096 bytes of
memory and the most recently executed decoded instruction. -/
def Obligations.DebugDumpShowsTheState : Prop :=
  ∀ s : State,
    (debugDump s).v.length = 16 ∧ (∀ r : RegIdx, (debugDump s).v[r.toNat]? = some (s.readV r)) ∧
    (debugDump s).i = s.i ∧ (debugDump s).pc = s.pc ∧ (debugDump s).dt = s.dt ∧
    (debugDump s).st = s.st ∧ (debugDump s).stack = s.stack ∧ (debugDump s).mem.length = 4096 ∧
    (∀ a, a < 4096 → (debugDump s).mem[a]? = some (s.readByte a)) ∧
    (debugDump s).lastInst = s.lastInst
end

