-- ==== Sys2Proof/Laws/State.lean ====
section
/-! SUPPORT. One lemma per field per named update of the state, true by rfl, so that no proof unfolds a
record update. -/

namespace Sys2Proof.Machine

variable (s : State)

/-! ### writeV -/

@[simp] theorem State.writeV_v (r : RegIdx) (b : Byte) : (s.writeV r b).v = s.v.set r.toNat b r.isLt := rfl
@[simp] theorem State.writeV_i (r : RegIdx) (b : Byte) : (s.writeV r b).i = s.i := rfl
@[simp] theorem State.writeV_pc (r : RegIdx) (b : Byte) : (s.writeV r b).pc = s.pc := rfl
@[simp] theorem State.writeV_stack (r : RegIdx) (b : Byte) : (s.writeV r b).stack = s.stack := rfl
@[simp] theorem State.writeV_dt (r : RegIdx) (b : Byte) : (s.writeV r b).dt = s.dt := rfl
@[simp] theorem State.writeV_st (r : RegIdx) (b : Byte) : (s.writeV r b).st = s.st := rfl
@[simp] theorem State.writeV_mem (r : RegIdx) (b : Byte) : (s.writeV r b).mem = s.mem := rfl
@[simp] theorem State.writeV_display (r : RegIdx) (b : Byte) : (s.writeV r b).display = s.display := rfl
@[simp] theorem State.writeV_keys (r : RegIdx) (b : Byte) : (s.writeV r b).keys = s.keys := rfl
@[simp] theorem State.writeV_lastPressed (r : RegIdx) (b : Byte) : (s.writeV r b).lastPressed = s.lastPressed := rfl
@[simp] theorem State.writeV_awaiting (r : RegIdx) (b : Byte) : (s.writeV r b).awaiting = s.awaiting := rfl
@[simp] theorem State.writeV_waitReg (r : RegIdx) (b : Byte) : (s.writeV r b).waitReg = s.waitReg := rfl
@[simp] theorem State.writeV_waitLatch (r : RegIdx) (b : Byte) : (s.writeV r b).waitLatch = s.waitLatch := rfl
@[simp] theorem State.writeV_fault (r : RegIdx) (b : Byte) : (s.writeV r b).fault = s.fault := rfl
@[simp] theorem State.writeV_lastInst (r : RegIdx) (b : Byte) : (s.writeV r b).lastInst = s.lastInst := rfl
@[simp] theorem State.writeV_config (r : RegIdx) (b : Byte) : (s.writeV r b).config = s.config := rfl
@[simp] theorem State.writeV_cpuAcc (r : RegIdx) (b : Byte) : (s.writeV r b).cpuAcc = s.cpuAcc := rfl
@[simp] theorem State.writeV_tmrAcc (r : RegIdx) (b : Byte) : (s.writeV r b).tmrAcc = s.tmrAcc := rfl
@[simp] theorem State.writeV_schedule (r : RegIdx) (b : Byte) : (s.writeV r b).schedule = s.schedule := rfl
@[simp] theorem State.writeV_randIn (r : RegIdx) (b : Byte) : (s.writeV r b).randIn = s.randIn := rfl
@[simp] theorem State.writeV_draws (r : RegIdx) (b : Byte) : (s.writeV r b).draws = s.draws := rfl
@[simp] theorem State.writeV_sounds (r : RegIdx) (b : Byte) : (s.writeV r b).sounds = s.sounds := rfl

/-! ### setI -/

@[simp] theorem State.setI_v (a : Word) : (s.setI a).v = s.v := rfl
@[simp] theorem State.setI_i (a : Word) : (s.setI a).i = a := rfl
@[simp] theorem State.setI_pc (a : Word) : (s.setI a).pc = s.pc := rfl
@[simp] theorem State.setI_stack (a : Word) : (s.setI a).stack = s.stack := rfl
@[simp] theorem State.setI_dt (a : Word) : (s.setI a).dt = s.dt := rfl
@[simp] theorem State.setI_st (a : Word) : (s.setI a).st = s.st := rfl
@[simp] theorem State.setI_mem (a : Word) : (s.setI a).mem = s.mem := rfl
@[simp] theorem State.setI_display (a : Word) : (s.setI a).display = s.display := rfl
@[simp] theorem State.setI_keys (a : Word) : (s.setI a).keys = s.keys := rfl
@[simp] theorem State.setI_lastPressed (a : Word) : (s.setI a).lastPressed = s.lastPressed := rfl
@[simp] theorem State.setI_awaiting (a : Word) : (s.setI a).awaiting = s.awaiting := rfl
@[simp] theorem State.setI_waitReg (a : Word) : (s.setI a).waitReg = s.waitReg := rfl
@[simp] theorem State.setI_waitLatch (a : Word) : (s.setI a).waitLatch = s.waitLatch := rfl
@[simp] theorem State.setI_fault (a : Word) : (s.setI a).fault = s.fault := rfl
@[simp] theorem State.setI_lastInst (a : Word) : (s.setI a).lastInst = s.lastInst := rfl
@[simp] theorem State.setI_config (a : Word) : (s.setI a).config = s.config := rfl
@[simp] theorem State.setI_cpuAcc (a : Word) : (s.setI a).cpuAcc = s.cpuAcc := rfl
@[simp] theorem State.setI_tmrAcc (a : Word) : (s.setI a).tmrAcc = s.tmrAcc := rfl
@[simp] theorem State.setI_schedule (a : Word) : (s.setI a).schedule = s.schedule := rfl
@[simp] theorem State.setI_randIn (a : Word) : (s.setI a).randIn = s.randIn := rfl
@[simp] theorem State.setI_draws (a : Word) : (s.setI a).draws = s.draws := rfl
@[simp] theorem State.setI_sounds (a : Word) : (s.setI a).sounds = s.sounds := rfl

/-! ### setPc -/

@[simp] theorem State.setPc_v (a : Word) : (s.setPc a).v = s.v := rfl
@[simp] theorem State.setPc_i (a : Word) : (s.setPc a).i = s.i := rfl
@[simp] theorem State.setPc_pc (a : Word) : (s.setPc a).pc = a := rfl
@[simp] theorem State.setPc_stack (a : Word) : (s.setPc a).stack = s.stack := rfl
@[simp] theorem State.setPc_dt (a : Word) : (s.setPc a).dt = s.dt := rfl
@[simp] theorem State.setPc_st (a : Word) : (s.setPc a).st = s.st := rfl
@[simp] theorem State.setPc_mem (a : Word) : (s.setPc a).mem = s.mem := rfl
@[simp] theorem State.setPc_display (a : Word) : (s.setPc a).display = s.display := rfl
@[simp] theorem State.setPc_keys (a : Word) : (s.setPc a).keys = s.keys := rfl
@[simp] theorem State.setPc_lastPressed (a : Word) : (s.setPc a).lastPressed = s.lastPressed := rfl
@[simp] theorem State.setPc_awaiting (a : Word) : (s.setPc a).awaiting = s.awaiting := rfl
@[simp] theorem State.setPc_waitReg (a : Word) : (s.setPc a).waitReg = s.waitReg := rfl
@[simp] theorem State.setPc_waitLatch (a : Word) : (s.setPc a).waitLatch = s.waitLatch := rfl
@[simp] theorem State.setPc_fault (a : Word) : (s.setPc a).fault = s.fault := rfl
@[simp] theorem State.setPc_lastInst (a : Word) : (s.setPc a).lastInst = s.lastInst := rfl
@[simp] theorem State.setPc_config (a : Word) : (s.setPc a).config = s.config := rfl
@[simp] theorem State.setPc_cpuAcc (a : Word) : (s.setPc a).cpuAcc = s.cpuAcc := rfl
@[simp] theorem State.setPc_tmrAcc (a : Word) : (s.setPc a).tmrAcc = s.tmrAcc := rfl
@[simp] theorem State.setPc_schedule (a : Word) : (s.setPc a).schedule = s.schedule := rfl
@[simp] theorem State.setPc_randIn (a : Word) : (s.setPc a).randIn = s.randIn := rfl
@[simp] theorem State.setPc_draws (a : Word) : (s.setPc a).draws = s.draws := rfl
@[simp] theorem State.setPc_sounds (a : Word) : (s.setPc a).sounds = s.sounds := rfl

/-! ### push -/

@[simp] theorem State.push_v (a : Word) : (s.push a).v = s.v := rfl
@[simp] theorem State.push_i (a : Word) : (s.push a).i = s.i := rfl
@[simp] theorem State.push_pc (a : Word) : (s.push a).pc = s.pc := rfl
@[simp] theorem State.push_stack (a : Word) : (s.push a).stack = s.stack ++ [a] := rfl
@[simp] theorem State.push_dt (a : Word) : (s.push a).dt = s.dt := rfl
@[simp] theorem State.push_st (a : Word) : (s.push a).st = s.st := rfl
@[simp] theorem State.push_mem (a : Word) : (s.push a).mem = s.mem := rfl
@[simp] theorem State.push_display (a : Word) : (s.push a).display = s.display := rfl
@[simp] theorem State.push_keys (a : Word) : (s.push a).keys = s.keys := rfl
@[simp] theorem State.push_lastPressed (a : Word) : (s.push a).lastPressed = s.lastPressed := rfl
@[simp] theorem State.push_awaiting (a : Word) : (s.push a).awaiting = s.awaiting := rfl
@[simp] theorem State.push_waitReg (a : Word) : (s.push a).waitReg = s.waitReg := rfl
@[simp] theorem State.push_waitLatch (a : Word) : (s.push a).waitLatch = s.waitLatch := rfl
@[simp] theorem State.push_fault (a : Word) : (s.push a).fault = s.fault := rfl
@[simp] theorem State.push_lastInst (a : Word) : (s.push a).lastInst = s.lastInst := rfl
@[simp] theorem State.push_config (a : Word) : (s.push a).config = s.config := rfl
@[simp] theorem State.push_cpuAcc (a : Word) : (s.push a).cpuAcc = s.cpuAcc := rfl
@[simp] theorem State.push_tmrAcc (a : Word) : (s.push a).tmrAcc = s.tmrAcc := rfl
@[simp] theorem State.push_schedule (a : Word) : (s.push a).schedule = s.schedule := rfl
@[simp] theorem State.push_randIn (a : Word) : (s.push a).randIn = s.randIn := rfl
@[simp] theorem State.push_draws (a : Word) : (s.push a).draws = s.draws := rfl
@[simp] theorem State.push_sounds (a : Word) : (s.push a).sounds = s.sounds := rfl

/-! ### storeBytes -/

@[simp] theorem State.storeBytes_v (a : Nat) (bytes : List Byte) : (s.storeBytes a bytes).v = s.v := rfl
@[simp] theorem State.storeBytes_i (a : Nat) (bytes : List Byte) : (s.storeBytes a bytes).i = s.i := rfl
@[simp] theorem State.storeBytes_pc (a : Nat) (bytes : List Byte) : (s.storeBytes a bytes).pc = s.pc := rfl
@[simp] theorem State.storeBytes_stack (a : Nat) (bytes : List Byte) : (s.storeBytes a bytes).stack = s.stack := rfl
@[simp] theorem State.storeBytes_dt (a : Nat) (bytes : List Byte) : (s.storeBytes a bytes).dt = s.dt := rfl
@[simp] theorem State.storeBytes_st (a : Nat) (bytes : List Byte) : (s.storeBytes a bytes).st = s.st := rfl
@[simp] theorem State.storeBytes_mem (a : Nat) (bytes : List Byte) : (s.storeBytes a bytes).mem = Memory.writeAll s.unlisted s.mem a bytes := rfl
@[simp] theorem State.storeBytes_display (a : Nat) (bytes : List Byte) : (s.storeBytes a bytes).display = s.display := rfl
@[simp] theorem State.storeBytes_keys (a : Nat) (bytes : List Byte) : (s.storeBytes a bytes).keys = s.keys := rfl
@[simp] theorem State.storeBytes_lastPressed (a : Nat) (bytes : List Byte) : (s.storeBytes a bytes).lastPressed = s.lastPressed := rfl
@[simp] theorem State.storeBytes_awaiting (a : Nat) (bytes : List Byte) : (s.storeBytes a bytes).awaiting = s.awaiting := rfl
@[simp] theorem State.storeBytes_waitReg (a : Nat) (bytes : List Byte) : (s.storeBytes a bytes).waitReg = s.waitReg := rfl
@[simp] theorem State.storeBytes_waitLatch (a : Nat) (bytes : List Byte) : (s.storeBytes a bytes).waitLatch = s.waitLatch := rfl
@[simp] theorem State.storeBytes_fault (a : Nat) (bytes : List Byte) : (s.storeBytes a bytes).fault = s.fault := rfl
@[simp] theorem State.storeBytes_lastInst (a : Nat) (bytes : List Byte) : (s.storeBytes a bytes).lastInst = s.lastInst := rfl
@[simp] theorem State.storeBytes_config (a : Nat) (bytes : List Byte) : (s.storeBytes a bytes).config = s.config := rfl
@[simp] theorem State.storeBytes_cpuAcc (a : Nat) (bytes : List Byte) : (s.storeBytes a bytes).cpuAcc = s.cpuAcc := rfl
@[simp] theorem State.storeBytes_tmrAcc (a : Nat) (bytes : List Byte) : (s.storeBytes a bytes).tmrAcc = s.tmrAcc := rfl
@[simp] theorem State.storeBytes_schedule (a : Nat) (bytes : List Byte) : (s.storeBytes a bytes).schedule = s.schedule := rfl
@[simp] theorem State.storeBytes_randIn (a : Nat) (bytes : List Byte) : (s.storeBytes a bytes).randIn = s.randIn := rfl
@[simp] theorem State.storeBytes_draws (a : Nat) (bytes : List Byte) : (s.storeBytes a bytes).draws = s.draws := rfl
@[simp] theorem State.storeBytes_sounds (a : Nat) (bytes : List Byte) : (s.storeBytes a bytes).sounds = s.sounds := rfl

/-! ### setDisplay -/

@[simp] theorem State.setDisplay_v (d : Display) : (s.setDisplay d).v = s.v := rfl
@[simp] theorem State.setDisplay_i (d : Display) : (s.setDisplay d).i = s.i := rfl
@[simp] theorem State.setDisplay_pc (d : Display) : (s.setDisplay d).pc = s.pc := rfl
@[simp] theorem State.setDisplay_stack (d : Display) : (s.setDisplay d).stack = s.stack := rfl
@[simp] theorem State.setDisplay_dt (d : Display) : (s.setDisplay d).dt = s.dt := rfl
@[simp] theorem State.setDisplay_st (d : Display) : (s.setDisplay d).st = s.st := rfl
@[simp] theorem State.setDisplay_mem (d : Display) : (s.setDisplay d).mem = s.mem := rfl
@[simp] theorem State.setDisplay_display (d : Display) : (s.setDisplay d).display = d := rfl
@[simp] theorem State.setDisplay_keys (d : Display) : (s.setDisplay d).keys = s.keys := rfl
@[simp] theorem State.setDisplay_lastPressed (d : Display) : (s.setDisplay d).lastPressed = s.lastPressed := rfl
@[simp] theorem State.setDisplay_awaiting (d : Display) : (s.setDisplay d).awaiting = s.awaiting := rfl
@[simp] theorem State.setDisplay_waitReg (d : Display) : (s.setDisplay d).waitReg = s.waitReg := rfl
@[simp] theorem State.setDisplay_waitLatch (d : Display) : (s.setDisplay d).waitLatch = s.waitLatch := rfl
@[simp] theorem State.setDisplay_fault (d : Display) : (s.setDisplay d).fault = s.fault := rfl
@[simp] theorem State.setDisplay_lastInst (d : Display) : (s.setDisplay d).lastInst = s.lastInst := rfl
@[simp] theorem State.setDisplay_config (d : Display) : (s.setDisplay d).config = s.config := rfl
@[simp] theorem State.setDisplay_cpuAcc (d : Display) : (s.setDisplay d).cpuAcc = s.cpuAcc := rfl
@[simp] theorem State.setDisplay_tmrAcc (d : Display) : (s.setDisplay d).tmrAcc = s.tmrAcc := rfl
@[simp] theorem State.setDisplay_schedule (d : Display) : (s.setDisplay d).schedule = s.schedule := rfl
@[simp] theorem State.setDisplay_randIn (d : Display) : (s.setDisplay d).randIn = s.randIn := rfl
@[simp] theorem State.setDisplay_draws (d : Display) : (s.setDisplay d).draws = s.draws := rfl
@[simp] theorem State.setDisplay_sounds (d : Display) : (s.setDisplay d).sounds = s.sounds := rfl

/-! ### setKey -/

@[simp] theorem State.setKey_v (k : Key) (down : Bool) : (s.setKey k down).v = s.v := rfl
@[simp] theorem State.setKey_i (k : Key) (down : Bool) : (s.setKey k down).i = s.i := rfl
@[simp] theorem State.setKey_pc (k : Key) (down : Bool) : (s.setKey k down).pc = s.pc := rfl
@[simp] theorem State.setKey_stack (k : Key) (down : Bool) : (s.setKey k down).stack = s.stack := rfl
@[simp] theorem State.setKey_dt (k : Key) (down : Bool) : (s.setKey k down).dt = s.dt := rfl
@[simp] theorem State.setKey_st (k : Key) (down : Bool) : (s.setKey k down).st = s.st := rfl
@[simp] theorem State.setKey_mem (k : Key) (down : Bool) : (s.setKey k down).mem = s.mem := rfl
@[simp] theorem State.setKey_display (k : Key) (down : Bool) : (s.setKey k down).display = s.display := rfl
@[simp] theorem State.setKey_keys (k : Key) (down : Bool) : (s.setKey k down).keys = s.keys.set k.toNat down k.isLt := rfl
@[simp] theorem State.setKey_lastPressed (k : Key) (down : Bool) : (s.setKey k down).lastPressed = s.lastPressed := rfl
@[simp] theorem State.setKey_awaiting (k : Key) (down : Bool) : (s.setKey k down).awaiting = s.awaiting := rfl
@[simp] theorem State.setKey_waitReg (k : Key) (down : Bool) : (s.setKey k down).waitReg = s.waitReg := rfl
@[simp] theorem State.setKey_waitLatch (k : Key) (down : Bool) : (s.setKey k down).waitLatch = s.waitLatch := rfl
@[simp] theorem State.setKey_fault (k : Key) (down : Bool) : (s.setKey k down).fault = s.fault := rfl
@[simp] theorem State.setKey_lastInst (k : Key) (down : Bool) : (s.setKey k down).lastInst = s.lastInst := rfl
@[simp] theorem State.setKey_config (k : Key) (down : Bool) : (s.setKey k down).config = s.config := rfl
@[simp] theorem State.setKey_cpuAcc (k : Key) (down : Bool) : (s.setKey k down).cpuAcc = s.cpuAcc := rfl
@[simp] theorem State.setKey_tmrAcc (k : Key) (down : Bool) : (s.setKey k down).tmrAcc = s.tmrAcc := rfl
@[simp] theorem State.setKey_schedule (k : Key) (down : Bool) : (s.setKey k down).schedule = s.schedule := rfl
@[simp] theorem State.setKey_randIn (k : Key) (down : Bool) : (s.setKey k down).randIn = s.randIn := rfl
@[simp] theorem State.setKey_draws (k : Key) (down : Bool) : (s.setKey k down).draws = s.draws := rfl
@[simp] theorem State.setKey_sounds (k : Key) (down : Bool) : (s.setKey k down).sounds = s.sounds := rfl

/-! ### setDT -/

@[simp] theorem State.setDT_v (b : Byte) : (s.setDT b).v = s.v := rfl
@[simp] theorem State.setDT_i (b : Byte) : (s.setDT b).i = s.i := rfl
@[simp] theorem State.setDT_pc (b : Byte) : (s.setDT b).pc = s.pc := rfl
@[simp] theorem State.setDT_stack (b : Byte) : (s.setDT b).stack = s.stack := rfl
@[simp] theorem State.setDT_dt (b : Byte) : (s.setDT b).dt = b := rfl
@[simp] theorem State.setDT_st (b : Byte) : (s.setDT b).st = s.st := rfl
@[simp] theorem State.setDT_mem (b : Byte) : (s.setDT b).mem = s.mem := rfl
@[simp] theorem State.setDT_display (b : Byte) : (s.setDT b).display = s.display := rfl
@[simp] theorem State.setDT_keys (b : Byte) : (s.setDT b).keys = s.keys := rfl
@[simp] theorem State.setDT_lastPressed (b : Byte) : (s.setDT b).lastPressed = s.lastPressed := rfl
@[simp] theorem State.setDT_awaiting (b : Byte) : (s.setDT b).awaiting = s.awaiting := rfl
@[simp] theorem State.setDT_waitReg (b : Byte) : (s.setDT b).waitReg = s.waitReg := rfl
@[simp] theorem State.setDT_waitLatch (b : Byte) : (s.setDT b).waitLatch = s.waitLatch := rfl
@[simp] theorem State.setDT_fault (b : Byte) : (s.setDT b).fault = s.fault := rfl
@[simp] theorem State.setDT_lastInst (b : Byte) : (s.setDT b).lastInst = s.lastInst := rfl
@[simp] theorem State.setDT_config (b : Byte) : (s.setDT b).config = s.config := rfl
@[simp] theorem State.setDT_cpuAcc (b : Byte) : (s.setDT b).cpuAcc = s.cpuAcc := rfl
@[simp] theorem State.setDT_tmrAcc (b : Byte) : (s.setDT b).tmrAcc = s.tmrAcc := rfl
@[simp] theorem State.setDT_schedule (b : Byte) : (s.setDT b).schedule = s.schedule := rfl
@[simp] theorem State.setDT_randIn (b : Byte) : (s.setDT b).randIn = s.randIn := rfl
@[simp] theorem State.setDT_draws (b : Byte) : (s.setDT b).draws = s.draws := rfl
@[simp] theorem State.setDT_sounds (b : Byte) : (s.setDT b).sounds = s.sounds := rfl

/-! ### setST -/

@[simp] theorem State.setST_v (b : Byte) : (s.setST b).v = s.v := rfl
@[simp] theorem State.setST_i (b : Byte) : (s.setST b).i = s.i := rfl
@[simp] theorem State.setST_pc (b : Byte) : (s.setST b).pc = s.pc := rfl
@[simp] theorem State.setST_stack (b : Byte) : (s.setST b).stack = s.stack := rfl
@[simp] theorem State.setST_dt (b : Byte) : (s.setST b).dt = s.dt := rfl
@[simp] theorem State.setST_st (b : Byte) : (s.setST b).st = b := rfl
@[simp] theorem State.setST_mem (b : Byte) : (s.setST b).mem = s.mem := rfl
@[simp] theorem State.setST_display (b : Byte) : (s.setST b).display = s.display := rfl
@[simp] theorem State.setST_keys (b : Byte) : (s.setST b).keys = s.keys := rfl
@[simp] theorem State.setST_lastPressed (b : Byte) : (s.setST b).lastPressed = s.lastPressed := rfl
@[simp] theorem State.setST_awaiting (b : Byte) : (s.setST b).awaiting = s.awaiting := rfl
@[simp] theorem State.setST_waitReg (b : Byte) : (s.setST b).waitReg = s.waitReg := rfl
@[simp] theorem State.setST_waitLatch (b : Byte) : (s.setST b).waitLatch = s.waitLatch := rfl
@[simp] theorem State.setST_fault (b : Byte) : (s.setST b).fault = s.fault := rfl
@[simp] theorem State.setST_lastInst (b : Byte) : (s.setST b).lastInst = s.lastInst := rfl
@[simp] theorem State.setST_config (b : Byte) : (s.setST b).config = s.config := rfl
@[simp] theorem State.setST_cpuAcc (b : Byte) : (s.setST b).cpuAcc = s.cpuAcc := rfl
@[simp] theorem State.setST_tmrAcc (b : Byte) : (s.setST b).tmrAcc = s.tmrAcc := rfl
@[simp] theorem State.setST_schedule (b : Byte) : (s.setST b).schedule = s.schedule := rfl
@[simp] theorem State.setST_randIn (b : Byte) : (s.setST b).randIn = s.randIn := rfl
@[simp] theorem State.setST_draws (b : Byte) : (s.setST b).draws = s.draws := rfl
@[simp] theorem State.setST_sounds (b : Byte) : (s.setST b).sounds = s.sounds ++ soundCrossing s.st b := rfl

/-! ### raise -/

@[simp] theorem State.raise_v (k : FaultKind) : (s.raise k).v = s.v := rfl
@[simp] theorem State.raise_i (k : FaultKind) : (s.raise k).i = s.i := rfl
@[simp] theorem State.raise_pc (k : FaultKind) : (s.raise k).pc = s.pc := rfl
@[simp] theorem State.raise_stack (k : FaultKind) : (s.raise k).stack = s.stack := rfl
@[simp] theorem State.raise_dt (k : FaultKind) : (s.raise k).dt = s.dt := rfl
@[simp] theorem State.raise_st (k : FaultKind) : (s.raise k).st = s.st := rfl
@[simp] theorem State.raise_mem (k : FaultKind) : (s.raise k).mem = s.mem := rfl
@[simp] theorem State.raise_display (k : FaultKind) : (s.raise k).display = s.display := rfl
@[simp] theorem State.raise_keys (k : FaultKind) : (s.raise k).keys = s.keys := rfl
@[simp] theorem State.raise_lastPressed (k : FaultKind) : (s.raise k).lastPressed = s.lastPressed := rfl
@[simp] theorem State.raise_awaiting (k : FaultKind) : (s.raise k).awaiting = s.awaiting := rfl
@[simp] theorem State.raise_waitReg (k : FaultKind) : (s.raise k).waitReg = s.waitReg := rfl
@[simp] theorem State.raise_waitLatch (k : FaultKind) : (s.raise k).waitLatch = s.waitLatch := rfl
@[simp] theorem State.raise_fault (k : FaultKind) : (s.raise k).fault = some { kind := k, addr := s.pc - 2, word := s.lastInst.map (·.1) } := rfl
@[simp] theorem State.raise_lastInst (k : FaultKind) : (s.raise k).lastInst = s.lastInst := rfl
@[simp] theorem State.raise_config (k : FaultKind) : (s.raise k).config = s.config := rfl
@[simp] theorem State.raise_cpuAcc (k : FaultKind) : (s.raise k).cpuAcc = s.cpuAcc := rfl
@[simp] theorem State.raise_tmrAcc (k : FaultKind) : (s.raise k).tmrAcc = s.tmrAcc := rfl
@[simp] theorem State.raise_schedule (k : FaultKind) : (s.raise k).schedule = s.schedule := rfl
@[simp] theorem State.raise_randIn (k : FaultKind) : (s.raise k).randIn = s.randIn := rfl
@[simp] theorem State.raise_draws (k : FaultKind) : (s.raise k).draws = s.draws := rfl
@[simp] theorem State.raise_sounds (k : FaultKind) : (s.raise k).sounds = s.sounds := rfl

/-! ### raiseFetch -/

@[simp] theorem State.raiseFetch_v : (s.raiseFetch).v = s.v := rfl
@[simp] theorem State.raiseFetch_i : (s.raiseFetch).i = s.i := rfl
@[simp] theorem State.raiseFetch_pc : (s.raiseFetch).pc = s.pc := rfl
@[simp] theorem State.raiseFetch_stack : (s.raiseFetch).stack = s.stack := rfl
@[simp] theorem State.raiseFetch_dt : (s.raiseFetch).dt = s.dt := rfl
@[simp] theorem State.raiseFetch_st : (s.raiseFetch).st = s.st := rfl
@[simp] theorem State.raiseFetch_mem : (s.raiseFetch).mem = s.mem := rfl
@[simp] theorem State.raiseFetch_display : (s.raiseFetch).display = s.display := rfl
@[simp] theorem State.raiseFetch_keys : (s.raiseFetch).keys = s.keys := rfl
@[simp] theorem State.raiseFetch_lastPressed : (s.raiseFetch).lastPressed = s.lastPressed := rfl
@[simp] theorem State.raiseFetch_awaiting : (s.raiseFetch).awaiting = s.awaiting := rfl
@[simp] theorem State.raiseFetch_waitReg : (s.raiseFetch).waitReg = s.waitReg := rfl
@[simp] theorem State.raiseFetch_waitLatch : (s.raiseFetch).waitLatch = s.waitLatch := rfl
@[simp] theorem State.raiseFetch_fault : (s.raiseFetch).fault = some { kind := .memoryOutOfBounds, addr := s.pc, word := none } := rfl
@[simp] theorem State.raiseFetch_lastInst : (s.raiseFetch).lastInst = s.lastInst := rfl
@[simp] theorem State.raiseFetch_config : (s.raiseFetch).config = s.config := rfl
@[simp] theorem State.raiseFetch_cpuAcc : (s.raiseFetch).cpuAcc = s.cpuAcc := rfl
@[simp] theorem State.raiseFetch_tmrAcc : (s.raiseFetch).tmrAcc = s.tmrAcc := rfl
@[simp] theorem State.raiseFetch_schedule : (s.raiseFetch).schedule = s.schedule := rfl
@[simp] theorem State.raiseFetch_randIn : (s.raiseFetch).randIn = s.randIn := rfl
@[simp] theorem State.raiseFetch_draws : (s.raiseFetch).draws = s.draws := rfl
@[simp] theorem State.raiseFetch_sounds : (s.raiseFetch).sounds = s.sounds := rfl

/-! ### beginExec -/

@[simp] theorem State.beginExec_v (q : Option Byte) (w : Word) (d : Decoded) : (s.beginExec q w d).v = s.v := rfl
@[simp] theorem State.beginExec_i (q : Option Byte) (w : Word) (d : Decoded) : (s.beginExec q w d).i = s.i := rfl
@[simp] theorem State.beginExec_pc (q : Option Byte) (w : Word) (d : Decoded) : (s.beginExec q w d).pc = s.pc + 2 := rfl
@[simp] theorem State.beginExec_stack (q : Option Byte) (w : Word) (d : Decoded) : (s.beginExec q w d).stack = s.stack := rfl
@[simp] theorem State.beginExec_dt (q : Option Byte) (w : Word) (d : Decoded) : (s.beginExec q w d).dt = s.dt := rfl
@[simp] theorem State.beginExec_st (q : Option Byte) (w : Word) (d : Decoded) : (s.beginExec q w d).st = s.st := rfl
@[simp] theorem State.beginExec_mem (q : Option Byte) (w : Word) (d : Decoded) : (s.beginExec q w d).mem = s.mem := rfl
@[simp] theorem State.beginExec_display (q : Option Byte) (w : Word) (d : Decoded) : (s.beginExec q w d).display = s.display := rfl
@[simp] theorem State.beginExec_keys (q : Option Byte) (w : Word) (d : Decoded) : (s.beginExec q w d).keys = s.keys := rfl
@[simp] theorem State.beginExec_lastPressed (q : Option Byte) (w : Word) (d : Decoded) : (s.beginExec q w d).lastPressed = s.lastPressed := rfl
@[simp] theorem State.beginExec_awaiting (q : Option Byte) (w : Word) (d : Decoded) : (s.beginExec q w d).awaiting = s.awaiting := rfl
@[simp] theorem State.beginExec_waitReg (q : Option Byte) (w : Word) (d : Decoded) : (s.beginExec q w d).waitReg = s.waitReg := rfl
@[simp] theorem State.beginExec_waitLatch (q : Option Byte) (w : Word) (d : Decoded) : (s.beginExec q w d).waitLatch = s.waitLatch := rfl
@[simp] theorem State.beginExec_fault (q : Option Byte) (w : Word) (d : Decoded) : (s.beginExec q w d).fault = s.fault := rfl
@[simp] theorem State.beginExec_lastInst (q : Option Byte) (w : Word) (d : Decoded) : (s.beginExec q w d).lastInst = some (w, d) := rfl
@[simp] theorem State.beginExec_config (q : Option Byte) (w : Word) (d : Decoded) : (s.beginExec q w d).config = s.config := rfl
@[simp] theorem State.beginExec_cpuAcc (q : Option Byte) (w : Word) (d : Decoded) : (s.beginExec q w d).cpuAcc = s.cpuAcc := rfl
@[simp] theorem State.beginExec_tmrAcc (q : Option Byte) (w : Word) (d : Decoded) : (s.beginExec q w d).tmrAcc = s.tmrAcc := rfl
@[simp] theorem State.beginExec_schedule (q : Option Byte) (w : Word) (d : Decoded) : (s.beginExec q w d).schedule = s.schedule := rfl
@[simp] theorem State.beginExec_randIn (q : Option Byte) (w : Word) (d : Decoded) : (s.beginExec q w d).randIn = q := rfl
@[simp] theorem State.beginExec_draws (q : Option Byte) (w : Word) (d : Decoded) : (s.beginExec q w d).draws = s.draws := rfl
@[simp] theorem State.beginExec_sounds (q : Option Byte) (w : Word) (d : Decoded) : (s.beginExec q w d).sounds = s.sounds := rfl

/-! ### resolveWait -/

@[simp] theorem State.resolveWait_v (k : Key) : (s.resolveWait k).v = s.v.set s.waitReg.toNat (k.setWidth 8) s.waitReg.isLt := rfl
@[simp] theorem State.resolveWait_i (k : Key) : (s.resolveWait k).i = s.i := rfl
@[simp] theorem State.resolveWait_pc (k : Key) : (s.resolveWait k).pc = s.pc := rfl
@[simp] theorem State.resolveWait_stack (k : Key) : (s.resolveWait k).stack = s.stack := rfl
@[simp] theorem State.resolveWait_dt (k : Key) : (s.resolveWait k).dt = s.dt := rfl
@[simp] theorem State.resolveWait_st (k : Key) : (s.resolveWait k).st = s.st := rfl
@[simp] theorem State.resolveWait_mem (k : Key) : (s.resolveWait k).mem = s.mem := rfl
@[simp] theorem State.resolveWait_display (k : Key) : (s.resolveWait k).display = s.display := rfl
@[simp] theorem State.resolveWait_keys (k : Key) : (s.resolveWait k).keys = s.keys := rfl
@[simp] theorem State.resolveWait_lastPressed (k : Key) : (s.resolveWait k).lastPressed = s.lastPressed := rfl
@[simp] theorem State.resolveWait_awaiting (k : Key) : (s.resolveWait k).awaiting = false := rfl
@[simp] theorem State.resolveWait_waitReg (k : Key) : (s.resolveWait k).waitReg = s.waitReg := rfl
@[simp] theorem State.resolveWait_waitLatch (k : Key) : (s.resolveWait k).waitLatch = s.waitLatch := rfl
@[simp] theorem State.resolveWait_fault (k : Key) : (s.resolveWait k).fault = s.fault := rfl
@[simp] theorem State.resolveWait_lastInst (k : Key) : (s.resolveWait k).lastInst = s.lastInst := rfl
@[simp] theorem State.resolveWait_config (k : Key) : (s.resolveWait k).config = s.config := rfl
@[simp] theorem State.resolveWait_cpuAcc (k : Key) : (s.resolveWait k).cpuAcc = s.cpuAcc := rfl
@[simp] theorem State.resolveWait_tmrAcc (k : Key) : (s.resolveWait k).tmrAcc = s.tmrAcc := rfl
@[simp] theorem State.resolveWait_schedule (k : Key) : (s.resolveWait k).schedule = s.schedule := rfl
@[simp] theorem State.resolveWait_randIn (k : Key) : (s.resolveWait k).randIn = s.randIn := rfl
@[simp] theorem State.resolveWait_draws (k : Key) : (s.resolveWait k).draws = s.draws := rfl
@[simp] theorem State.resolveWait_sounds (k : Key) : (s.resolveWait k).sounds = s.sounds := rfl

end Sys2Proof.Machine
end

