-- ==== Sys2Proof/Laws/Memory.lean ====
section
/-! SUPPORT. Memory: a read after a write, and that every memory operation keeps the canonical form
(log entry 8). -/

namespace Sys2Proof.Machine

variable (d : Nat → Byte)

theorem Memory.read_erase (m : Memory) (a q : Nat) :
    Memory.read d (Memory.erase m a) q = if q = a then d a else Memory.read d m q := by
  induction m with
  | nil => by_cases h : q = a <;> simp [Memory.erase, Memory.read, h]
  | cons c rest ih =>
    simp only [Memory.erase]
    split
    · next h => rw [ih]; by_cases hq : q = a <;> simp [Memory.read, hq, h]; omega
    · next h =>
      simp only [Memory.read, ih]
      by_cases hq : q = a
      · simp [hq, h]
      · simp [hq]

theorem Memory.read_insert (m : Memory) (a q : Nat) (b : Byte) :
    Memory.read d (Memory.insert m a b) q = if q = a then b else Memory.read d m q := by
  have key (l : Memory) : Memory.read d ((a, b) :: l) q = if q = a then b else Memory.read d l q := by
    by_cases h : q = a
    · simp [Memory.read, h]
    · have : ¬ a = q := fun e => h e.symm
      simp [Memory.read, h, this]
  induction m with
  | nil => exact key []
  | cons c rest ih =>
    simp only [Memory.insert]
    split
    · exact key _
    · split
      · next h =>
        rw [key]
        by_cases hq : q = a
        · simp [hq]
        · have : ¬ c.1 = q := fun e => hq (by omega)
          simp [Memory.read, hq, this]
      · next h =>
        simp only [Memory.read, ih]
        by_cases hq : q = a
        · have : ¬ c.1 = a := fun e => h e.symm
          simp [hq, this]
        · simp [hq]

/-- A read after a write: the byte written, and every other byte as before. -/
theorem Memory.read_write (m : Memory) (a q : Nat) (b : Byte) :
    Memory.read d (Memory.write d m a b) q = if q = a then b else Memory.read d m q := by
  unfold Memory.write
  split
  · next h => rw [Memory.read_erase, h]
  · exact Memory.read_insert d m a q b

/-- A read after a write of several bytes. -/
theorem Memory.read_writeAll (bytes : List Byte) (m : Memory) (a q : Nat) :
    Memory.read d (Memory.writeAll d m a bytes) q =
      if h : a ≤ q ∧ q < a + bytes.length then bytes[q - a]'(by omega) else Memory.read d m q := by
  induction bytes generalizing m a with
  | nil => simp [Memory.writeAll]
  | cons b rest ih =>
    rw [Memory.writeAll, ih, Memory.read_write]
    by_cases e : q = a
    · simp [e]
    · simp only [e, if_false, List.length_cons]
      by_cases h : a ≤ q ∧ q < a + (rest.length + 1)
      · rw [dif_pos ⟨by omega, by omega⟩, dif_pos h]
        have : q - a = (q - (a + 1)) + 1 := by omega
        simp [this]
      · rw [dif_neg (by omega), dif_neg h]

theorem Memory.mem_erase {m : Memory} {a : Nat} {c : Host.Cell} (h : c ∈ Memory.erase m a) : c ∈ m := by
  induction m with
  | nil => exact h
  | cons e rest ih =>
    simp only [Memory.erase] at h
    split at h
    · exact List.mem_cons_of_mem _ (ih h)
    · rcases List.mem_cons.1 h with h | h
      · exact h ▸ List.mem_cons_self
      · exact List.mem_cons_of_mem _ (ih h)

theorem Memory.mem_insert {m : Memory} {a : Nat} {b : Byte} {c : Host.Cell}
    (h : c ∈ Memory.insert m a b) : c = (a, b) ∨ c ∈ m := by
  induction m with
  | nil => exact .inl (by simpa [Memory.insert] using h)
  | cons e rest ih =>
    simp only [Memory.insert] at h
    split at h
    · simpa using h
    · split at h
      · rcases List.mem_cons.1 h with h | h
        · exact .inl h
        · exact .inr (List.mem_cons_of_mem _ h)
      · rcases List.mem_cons.1 h with h | h
        · exact .inr (h ▸ List.mem_cons_self)
        · exact (ih h).imp id (List.mem_cons_of_mem _)

theorem Memory.sorted_erase {m : Memory} (a : Nat) (h : m.Pairwise (fun c c' => c.1 < c'.1)) :
    (Memory.erase m a).Pairwise (fun c c' => c.1 < c'.1) := by
  induction m with
  | nil => exact .nil
  | cons e rest ih =>
    rw [List.pairwise_cons] at h
    simp only [Memory.erase]
    split
    · exact ih h.2
    · exact List.pairwise_cons.2 ⟨fun c hc => h.1 c (Memory.mem_erase hc), ih h.2⟩

theorem Memory.sorted_insert {m : Memory} (a : Nat) (b : Byte)
    (h : m.Pairwise (fun c c' => c.1 < c'.1)) :
    (Memory.insert m a b).Pairwise (fun c c' => c.1 < c'.1) := by
  induction m with
  | nil => simp [Memory.insert]
  | cons e rest ih =>
    have h' := List.pairwise_cons.1 h
    simp only [Memory.insert]
    split
    · next lt =>
      refine List.pairwise_cons.2 ⟨fun c hc => ?_, h⟩
      rcases List.mem_cons.1 hc with rfl | hc
      · exact lt
      · exact Nat.lt_trans lt (h'.1 c hc)
    · split
      · next eq => exact List.pairwise_cons.2 ⟨fun c hc => eq ▸ h'.1 c hc, h'.2⟩
      · next ge ne =>
        refine List.pairwise_cons.2 ⟨fun c hc => ?_, ih h'.2⟩
        rcases Memory.mem_insert hc with rfl | hc
        · show e.1 < a
          omega
        · exact h'.1 c hc

/-- A write inside memory keeps the canonical form. -/
theorem Memory.wf_write {m : Memory} {a : Nat} (b : Byte) (h : Memory.wf d m) (ha : a < memSize) :
    Memory.wf d (Memory.write d m a b) := by
  unfold Memory.write
  split
  · exact ⟨Memory.sorted_erase a h.1, fun c hc => h.2 c (Memory.mem_erase hc)⟩
  · next ne =>
    refine ⟨Memory.sorted_insert a b h.1, fun c hc => ?_⟩
    rcases Memory.mem_insert hc with rfl | hc
    · exact ⟨ha, ne⟩
    · exact h.2 c hc

/-- A write of several bytes inside memory keeps the canonical form. -/
theorem Memory.wf_writeAll (bytes : List Byte) {m : Memory} {a : Nat} (h : Memory.wf d m)
    (ha : a + bytes.length ≤ memSize) : Memory.wf d (Memory.writeAll d m a bytes) := by
  induction bytes generalizing m a with
  | nil => exact h
  | cons b rest ih =>
    simp only [List.length_cons] at ha
    exact ih (Memory.wf_write d b h (by omega)) (by omega)

/-- The empty list is canonical, so reset memory is. -/
theorem Memory.wf_nil : Memory.wf d [] := ⟨.nil, fun _ h => nomatch h⟩

theorem State.reset_mem_wf : Memory.wf State.reset.unlisted State.reset.mem := Memory.wf_nil _

variable (s : State)

@[simp] theorem State.unlisted_storeBytes (a : Nat) (bytes : List Byte) :
    (s.storeBytes a bytes).unlisted = s.unlisted := rfl

/-- A byte after `storeBytes`. -/
theorem State.readByte_storeBytes (a q : Nat) (bytes : List Byte) :
    (s.storeBytes a bytes).readByte q =
      if h : a ≤ q ∧ q < a + bytes.length then bytes[q - a]'(by omega) else s.readByte q :=
  Memory.read_writeAll _ bytes s.mem a q

/-- Equal memories under equal font bases read alike. -/
theorem State.readByte_congr {s t : State} (hm : t.mem = s.mem) (hc : t.config = s.config) (a : Nat) :
    t.readByte a = s.readByte a := by
  simp [State.readByte, State.unlisted, hm, hc]

/-- What MemWrite can do: it moves no byte and answers none where the range leaves memory, else it writes
the whole range. -/
theorem State.memWrite_cases (a : Nat) (bytes : List Byte) :
    (a + bytes.length - 1 > 0xFFF ∧ s.memWrite a bytes = none) ∨
      (a + bytes.length - 1 ≤ 0xFFF ∧ s.memWrite a bytes = some (s.storeBytes a bytes)) := by
  unfold State.memWrite inBounds memTop
  by_cases h : a + bytes.length - 1 ≤ 0xFFF
  · exact .inr ⟨h, by simp [h]⟩
  · exact .inl ⟨by omega, by simp [h]⟩

/-- What MemRead can do. -/
theorem State.memRead_cases (a n : Nat) :
    (a + n - 1 > 0xFFF ∧ s.memRead a n = none) ∨
      (a + n - 1 ≤ 0xFFF ∧
        s.memRead a n = some ((List.range n).map fun k => s.readByte (a + k))) := by
  unfold State.memRead inBounds memTop
  by_cases h : a + n - 1 ≤ 0xFFF
  · exact .inr ⟨h, by simp [h]⟩
  · exact .inl ⟨by omega, by simp [h]⟩

/-- What a fetch can do (spec/40_cycle.md R94). -/
theorem State.fetch_cases :
    (s.pc.toNat ≥ 0xFFF ∧ s.fetch = none) ∨
      (s.pc.toNat ≤ 0xFFE ∧
        s.fetch = some (wordOfBytes (s.readByte s.pc.toNat) (s.readByte (s.pc.toNat + 1)))) := by
  unfold State.fetch memTop
  by_cases h : s.pc.toNat + 1 ≤ 0xFFF
  · exact .inr ⟨by omega, by simp [h]⟩
  · exact .inl ⟨by omega, by simp [h]⟩

end Sys2Proof.Machine
end

