-- ==== Sys2Proof/Laws/Registers.lean ====
section
/-! SUPPORT. What the register operations do: reads after writes, the loops of the block transfers, and
what the compound updates leave alone. -/

namespace Sys2Proof.Machine

variable (s : State)

theorem State.readV_writeV (r q : RegIdx) (b : Byte) :
    (s.writeV r b).readV q = if r = q then b else s.readV q := by
  simp only [State.readV, State.writeV, Vector.getElem_set]
  by_cases h : r = q
  · simp [h]
  · have : r.toNat ≠ q.toNat := fun e => h (BitVec.eq_of_toNat_eq e)
    simp [h, this]

@[simp] theorem State.readV_writeV_same (r : RegIdx) (b : Byte) : (s.writeV r b).readV r = b := by
  simp [State.readV_writeV]

theorem State.readV_writeV_ne {r q : RegIdx} (b : Byte) (h : q ≠ r) :
    (s.writeV r b).readV q = s.readV q := by
  simp [State.readV_writeV, Ne.symm h]

/-- Equal register files read alike. -/
theorem State.readV_congr {s t : State} (h : t.v = s.v) (r : RegIdx) : t.readV r = s.readV r := by
  simp [State.readV, h]

@[simp] theorem State.readV_setI (a : Word) (r : RegIdx) : (s.setI a).readV r = s.readV r := rfl
@[simp] theorem State.readV_setPc (a : Word) (r : RegIdx) : (s.setPc a).readV r = s.readV r := rfl
@[simp] theorem State.readV_setDisplay (d : Display) (r : RegIdx) :
    (s.setDisplay d).readV r = s.readV r := rfl

/-- A write of one register keeps everything but the register file. -/
theorem State.writeV_onlyV (r : RegIdx) (b : Byte) :
    s.writeV r b = { s with v := (s.writeV r b).v } := rfl

/-- A result and a flag: the flag remains in VF, the result stands elsewhere (R21). -/
theorem State.readV_writeResultFlag (x q : RegIdx) (r flag : Byte) :
    (s.writeResultFlag x r flag).readV q =
      if q = vf then flag else if q = x then r else s.readV q := by
  simp only [State.writeResultFlag, State.readV_writeV]
  by_cases h : q = vf <;> by_cases h' : q = x <;> simp_all [eq_comm]

theorem State.writeResultFlag_onlyV (x : RegIdx) (r flag : Byte) :
    s.writeResultFlag x r flag = { s with v := (s.writeResultFlag x r flag).v } := rfl

/-- The logic family: VF is 0 under the quirk, an ordinary register otherwise (spec/42_alu.md R133). -/
theorem State.readV_writeLogic (x q : RegIdx) (r : Byte) :
    (s.writeLogic x r).readV q =
      if q = vf ∧ s.config.qLogicVfReset = true then 0 else if q = x then r else s.readV q := by
  unfold State.writeLogic
  split
  · next h => simp [State.readV_writeResultFlag, h]
  · next h => simp [State.readV_writeV, h, eq_comm]

theorem State.writeLogic_onlyV (x : RegIdx) (r : Byte) :
    s.writeLogic x r = { s with v := (s.writeLogic x r).v } := by
  unfold State.writeLogic
  split <;> rfl

/-- The loop of LD_VX_MEM writes exactly the registers it names. -/
theorem State.readV_writeVs (bytes : List Byte) (k : Nat) (h : k + bytes.length ≤ 16) (q : RegIdx) :
    (s.writeVs k bytes).readV q =
      if hq : k ≤ q.toNat ∧ q.toNat < k + bytes.length then bytes[q.toNat - k]'(by omega)
      else s.readV q := by
  induction bytes generalizing s k with
  | nil => simp [State.writeVs]
  | cons b rest ih =>
    simp only [List.length_cons] at h
    have hk : (BitVec.ofNat 4 k).toNat = k := by simp; omega
    rw [State.writeVs, ih _ _ (by omega), State.readV_writeV]
    by_cases e : q.toNat = k
    · have : BitVec.ofNat 4 k = q := BitVec.eq_of_toNat_eq (by omega)
      simp [this, e]
    · have : ¬ BitVec.ofNat 4 k = q := fun c => e (by rw [← c, hk])
      simp only [this, if_false, List.length_cons]
      by_cases hq : k ≤ q.toNat ∧ q.toNat < k + (rest.length + 1)
      · rw [dif_pos ⟨by omega, by omega⟩, dif_pos hq]
        have : q.toNat - k = (q.toNat - (k + 1)) + 1 := by omega
        simp [this]
      · rw [dif_neg (by omega), dif_neg hq]

theorem State.writeVs_onlyV (bytes : List Byte) (k : Nat) :
    s.writeVs k bytes = { s with v := (s.writeVs k bytes).v } := by
  induction bytes generalizing s k with
  | nil => rfl
  | cons b rest ih =>
    exact ih (s.writeV (BitVec.ofNat 4 k) b) (k + 1)

/-! ### The fields after the two compound register updates -/

@[simp] theorem State.writeLogic_i (x : RegIdx) (r : Byte) :
    (s.writeLogic x r).i = s.i := by rw [State.writeLogic_onlyV]
@[simp] theorem State.writeLogic_pc (x : RegIdx) (r : Byte) :
    (s.writeLogic x r).pc = s.pc := by rw [State.writeLogic_onlyV]
@[simp] theorem State.writeLogic_stack (x : RegIdx) (r : Byte) :
    (s.writeLogic x r).stack = s.stack := by rw [State.writeLogic_onlyV]
@[simp] theorem State.writeLogic_dt (x : RegIdx) (r : Byte) :
    (s.writeLogic x r).dt = s.dt := by rw [State.writeLogic_onlyV]
@[simp] theorem State.writeLogic_st (x : RegIdx) (r : Byte) :
    (s.writeLogic x r).st = s.st := by rw [State.writeLogic_onlyV]
@[simp] theorem State.writeLogic_mem (x : RegIdx) (r : Byte) :
    (s.writeLogic x r).mem = s.mem := by rw [State.writeLogic_onlyV]
@[simp] theorem State.writeLogic_display (x : RegIdx) (r : Byte) :
    (s.writeLogic x r).display = s.display := by rw [State.writeLogic_onlyV]
@[simp] theorem State.writeLogic_keys (x : RegIdx) (r : Byte) :
    (s.writeLogic x r).keys = s.keys := by rw [State.writeLogic_onlyV]
@[simp] theorem State.writeLogic_lastPressed (x : RegIdx) (r : Byte) :
    (s.writeLogic x r).lastPressed = s.lastPressed := by rw [State.writeLogic_onlyV]
@[simp] theorem State.writeLogic_awaiting (x : RegIdx) (r : Byte) :
    (s.writeLogic x r).awaiting = s.awaiting := by rw [State.writeLogic_onlyV]
@[simp] theorem State.writeLogic_waitReg (x : RegIdx) (r : Byte) :
    (s.writeLogic x r).waitReg = s.waitReg := by rw [State.writeLogic_onlyV]
@[simp] theorem State.writeLogic_waitLatch (x : RegIdx) (r : Byte) :
    (s.writeLogic x r).waitLatch = s.waitLatch := by rw [State.writeLogic_onlyV]
@[simp] theorem State.writeLogic_fault (x : RegIdx) (r : Byte) :
    (s.writeLogic x r).fault = s.fault := by rw [State.writeLogic_onlyV]
@[simp] theorem State.writeLogic_lastInst (x : RegIdx) (r : Byte) :
    (s.writeLogic x r).lastInst = s.lastInst := by rw [State.writeLogic_onlyV]
@[simp] theorem State.writeLogic_config (x : RegIdx) (r : Byte) :
    (s.writeLogic x r).config = s.config := by rw [State.writeLogic_onlyV]
@[simp] theorem State.writeLogic_cpuAcc (x : RegIdx) (r : Byte) :
    (s.writeLogic x r).cpuAcc = s.cpuAcc := by rw [State.writeLogic_onlyV]
@[simp] theorem State.writeLogic_tmrAcc (x : RegIdx) (r : Byte) :
    (s.writeLogic x r).tmrAcc = s.tmrAcc := by rw [State.writeLogic_onlyV]
@[simp] theorem State.writeLogic_schedule (x : RegIdx) (r : Byte) :
    (s.writeLogic x r).schedule = s.schedule := by rw [State.writeLogic_onlyV]
@[simp] theorem State.writeLogic_randIn (x : RegIdx) (r : Byte) :
    (s.writeLogic x r).randIn = s.randIn := by rw [State.writeLogic_onlyV]
@[simp] theorem State.writeLogic_draws (x : RegIdx) (r : Byte) :
    (s.writeLogic x r).draws = s.draws := by rw [State.writeLogic_onlyV]
@[simp] theorem State.writeLogic_sounds (x : RegIdx) (r : Byte) :
    (s.writeLogic x r).sounds = s.sounds := by rw [State.writeLogic_onlyV]
@[simp] theorem State.writeVs_i (k : Nat) (bytes : List Byte) :
    (s.writeVs k bytes).i = s.i := by rw [State.writeVs_onlyV]
@[simp] theorem State.writeVs_pc (k : Nat) (bytes : List Byte) :
    (s.writeVs k bytes).pc = s.pc := by rw [State.writeVs_onlyV]
@[simp] theorem State.writeVs_stack (k : Nat) (bytes : List Byte) :
    (s.writeVs k bytes).stack = s.stack := by rw [State.writeVs_onlyV]
@[simp] theorem State.writeVs_dt (k : Nat) (bytes : List Byte) :
    (s.writeVs k bytes).dt = s.dt := by rw [State.writeVs_onlyV]
@[simp] theorem State.writeVs_st (k : Nat) (bytes : List Byte) :
    (s.writeVs k bytes).st = s.st := by rw [State.writeVs_onlyV]
@[simp] theorem State.writeVs_mem (k : Nat) (bytes : List Byte) :
    (s.writeVs k bytes).mem = s.mem := by rw [State.writeVs_onlyV]
@[simp] theorem State.writeVs_display (k : Nat) (bytes : List Byte) :
    (s.writeVs k bytes).display = s.display := by rw [State.writeVs_onlyV]
@[simp] theorem State.writeVs_keys (k : Nat) (bytes : List Byte) :
    (s.writeVs k bytes).keys = s.keys := by rw [State.writeVs_onlyV]
@[simp] theorem State.writeVs_lastPressed (k : Nat) (bytes : List Byte) :
    (s.writeVs k bytes).lastPressed = s.lastPressed := by rw [State.writeVs_onlyV]
@[simp] theorem State.writeVs_awaiting (k : Nat) (bytes : List Byte) :
    (s.writeVs k bytes).awaiting = s.awaiting := by rw [State.writeVs_onlyV]
@[simp] theorem State.writeVs_waitReg (k : Nat) (bytes : List Byte) :
    (s.writeVs k bytes).waitReg = s.waitReg := by rw [State.writeVs_onlyV]
@[simp] theorem State.writeVs_waitLatch (k : Nat) (bytes : List Byte) :
    (s.writeVs k bytes).waitLatch = s.waitLatch := by rw [State.writeVs_onlyV]
@[simp] theorem State.writeVs_fault (k : Nat) (bytes : List Byte) :
    (s.writeVs k bytes).fault = s.fault := by rw [State.writeVs_onlyV]
@[simp] theorem State.writeVs_lastInst (k : Nat) (bytes : List Byte) :
    (s.writeVs k bytes).lastInst = s.lastInst := by rw [State.writeVs_onlyV]
@[simp] theorem State.writeVs_config (k : Nat) (bytes : List Byte) :
    (s.writeVs k bytes).config = s.config := by rw [State.writeVs_onlyV]
@[simp] theorem State.writeVs_cpuAcc (k : Nat) (bytes : List Byte) :
    (s.writeVs k bytes).cpuAcc = s.cpuAcc := by rw [State.writeVs_onlyV]
@[simp] theorem State.writeVs_tmrAcc (k : Nat) (bytes : List Byte) :
    (s.writeVs k bytes).tmrAcc = s.tmrAcc := by rw [State.writeVs_onlyV]
@[simp] theorem State.writeVs_schedule (k : Nat) (bytes : List Byte) :
    (s.writeVs k bytes).schedule = s.schedule := by rw [State.writeVs_onlyV]
@[simp] theorem State.writeVs_randIn (k : Nat) (bytes : List Byte) :
    (s.writeVs k bytes).randIn = s.randIn := by rw [State.writeVs_onlyV]
@[simp] theorem State.writeVs_draws (k : Nat) (bytes : List Byte) :
    (s.writeVs k bytes).draws = s.draws := by rw [State.writeVs_onlyV]
@[simp] theorem State.writeVs_sounds (k : Nat) (bytes : List Byte) :
    (s.writeVs k bytes).sounds = s.sounds := by rw [State.writeVs_onlyV]

@[simp] theorem State.length_readVs (n : Nat) : (s.readVs n).length = n := by simp [State.readVs]

theorem State.getElem_readVs (n k : Nat) (h : k < (s.readVs n).length) :
    (s.readVs n)[k] = s.readV (BitVec.ofNat 4 k) := by simp [State.readVs]

/-- A skip moves `pc` by 2 where it is taken and changes nothing else. -/
theorem State.skipIf_eq (c : Bool) : s.skipIf c = s.setPc (if c then s.pc + 2 else s.pc) := by
  cases c <;> rfl

/-- A block transfer moves I under the quirk and changes nothing else. -/
theorem State.advanceI_eq (n : Nat) :
    s.advanceI n = s.setI (if s.config.qMemIncI then s.i + BitVec.ofNat 16 n else s.i) := by
  unfold State.advanceI
  split <;> rfl

/-- `Pop()` gives the last element and the stack without it (R24). -/
theorem State.pop_append {rest : List Word} {a : Word} (h : s.stack = rest ++ [a]) :
    s.pop = some (a, { s with stack := rest }) := by
  simp [State.pop, h]

theorem State.pop_empty (h : s.stack = []) : s.pop = none := by simp [State.pop, h]

/-- What `Pop()` can do. -/
theorem State.pop_cases :
    (s.stack = [] ∧ s.pop = none) ∨
      ∃ rest a, s.stack = rest ++ [a] ∧ s.pop = some (a, { s with stack := rest }) := by
  rcases List.eq_nil_or_concat s.stack with h | ⟨rest, a, h⟩
  · exact .inl ⟨h, s.pop_empty h⟩
  · exact .inr ⟨rest, a, by simpa using h, s.pop_append (by simpa using h)⟩

end Sys2Proof.Machine
end

