-- ==== Sys2Proof/Laws/Cycle.lean ====
section
/-! SUPPORT. What the shared operations of the cycle and of the events can do, as case lists: the key-wait
check, a cycle, a step, a raise, a timer tick. -/

namespace Sys2Proof.Machine

variable (s : State)

/-- What the key-wait check can do (spec/40_cycle.md R92, R93). -/
theorem keyWaitCheck_cases :
    (s.config.keyWaitMode = .level ∧ s.lastPressed = none ∧ keyWaitCheck s = s) ∨
      (∃ k, s.config.keyWaitMode = .level ∧ s.lastPressed = some k ∧ keyWaitCheck s = s.resolveWait k) ∨
      (s.config.keyWaitMode = .edge ∧ s.waitLatch = none ∧ keyWaitCheck s = s) ∨
      (∃ k, s.config.keyWaitMode = .edge ∧ s.waitLatch = some k ∧
        keyWaitCheck s = { s.resolveWait k with waitLatch := none }) := by
  unfold keyWaitCheck
  cases hm : s.config.keyWaitMode with
  | level => cases hl : s.lastPressed <;> simp
  | edge => cases hl : s.waitLatch <;> simp

/-- What a cycle can do (spec/40_cycle.md R90). -/
theorem cycle_cases (rand : Option Byte) :
    (s.fault ≠ none ∧ cycle rand s = .next s) ∨
      (s.fault = none ∧ s.awaiting = true ∧ cycle rand s = .next (keyWaitCheck s)) ∨
      (s.Ready ∧ s.fetch = none ∧ cycle rand s = .next s.raiseFetch) ∨
      (∃ w, s.Ready ∧ s.fetch = some w ∧
        cycle rand s = execute (decode s.config w) (s.beginExec rand w (decode s.config w))) := by
  unfold State.Ready cycle
  cases hf : s.fault
  · cases ha : s.awaiting
    · cases he : s.fetch <;> simp
    · simp
  · simp

/-- What a step can do (spec/00_scope.md R7): a Cycle where the schedule is empty, else its head. -/
theorem step_cases :
    (s.schedule = [] ∧ step s = cycle none s) ∨
      (∃ e rest, s.schedule = e :: rest ∧ step s = takeEvent e { s with schedule := rest }) := by
  unfold step nextEvent
  cases hs : s.schedule <;> simp

/-- A raise by an instruction that the cycle has begun records the fetch address and the fetched word
(spec/60_exceptions.md R205; log entry 7). -/
theorem State.raise_beginExec (rand : Option Byte) (w : Word) (d : Decoded) (kind : FaultKind) :
    (s.beginExec rand w d).raise kind =
      { s.beginExec rand w d with fault := some ⟨kind, s.pc, some w⟩ } := by
  simp [State.raise, State.beginExec]

/-- The register file reads through the common part of a cycle. -/
@[simp] theorem State.readV_beginExec (rand : Option Byte) (w : Word) (d : Decoded) (r : RegIdx) :
    (s.beginExec rand w d).readV r = s.readV r := rfl

/-- Memory reads through the common part of a cycle. -/
@[simp] theorem State.readByte_beginExec (rand : Option Byte) (w : Word) (d : Decoded) (a : Nat) :
    (s.beginExec rand w d).readByte a = s.readByte a := rfl

/-- Taking an event from the schedule changes no byte that a fetch or an instruction reads. -/
@[simp] theorem State.readByte_withSchedule (rest : List Event) (a : Nat) :
    ({ s with schedule := rest } : State).readByte a = s.readByte a := rfl

@[simp] theorem State.fetch_withSchedule (rest : List Event) :
    ({ s with schedule := rest } : State).fetch = s.fetch := rfl

/-- One decrement, clamped at zero (spec/60_exceptions.md R215). -/
theorem toNat_tickDown (b : Byte) : (tickDown b).toNat = b.toNat - 1 := by
  unfold tickDown
  split
  · next h => subst h; rfl
  · next h =>
    have : b.toNat ≠ 0 := fun e => h (BitVec.eq_of_toNat_eq e)
    have := b.isLt
    simp [BitVec.toNat_sub]
    omega

/-- A tick of a core with no latched fault. -/
theorem tick60_eq (h : s.fault = none) :
    tick60 s = (s.setDT (tickDown s.dt)).setST (tickDown s.st) := by
  simp [tick60, h]

/-- A key flag after a key flag is written (spec/10_state.md R29). -/
theorem State.keyDown_setKey (k j : Key) (down : Bool) :
    (s.setKey k down).keyDown j = if j = k then down else s.keyDown j := by
  simp only [State.keyDown, State.setKey, Vector.getElem_set]
  by_cases h : j = k
  · simp [h]
  · have : k.toNat ≠ j.toNat := fun e => h (BitVec.eq_of_toNat_eq e.symm)
    simp [h, this]

/-- A big-endian word as a number (spec/20_memory.md R54). -/
theorem toNat_wordOfBytes (first second : Byte) :
    (wordOfBytes first second).toNat = 256 * first.toNat + second.toNat := by
  have := second.isLt
  unfold wordOfBytes
  rw [BitVec.toNat_append, ← Nat.shiftLeft_add_eq_or_of_lt second.isLt, Nat.shiftLeft_eq]
  omega

end Sys2Proof.Machine
end

