-- ==== Sys2Proof/Laws/Display.lean ====
section
/-! SUPPORT. The display: what flipping a pixel does to every pixel. -/

namespace Sys2Proof.Machine

@[simp] theorem Display.px_blank (x : Fin 64) (y : Fin 32) : Display.blank.px x y = false := by
  simp [Display.blank, Display.px]

/-- Two displays are equal when every pixel is. -/
theorem Display.ext_px {d e : Display} (h : ∀ x y, d.px x y = e.px x y) : d = e := by
  refine Vector.ext fun k hk => BitVec.eq_of_getLsbD_eq fun b hb => ?_
  exact h ⟨b, hb⟩ ⟨k, hk⟩

/-- A flip toggles its own pixel and leaves every other pixel alone. -/
theorem Display.px_flip (d : Display) (x x' : Fin 64) (y y' : Fin 32) :
    (d.flip x y).px x' y' = (d.px x' y' ^^ decide (x = x' ∧ y = y')) := by
  simp only [Display.px, Display.flip, Vector.getElem_set]
  by_cases hy : y = y'
  · subst hy
    by_cases hx : x = x'
    · subst hx; simp
    · have : x.val ≠ x'.val := fun e => hx (Fin.ext e)
      simp [hx, Ne.symm this]
  · have : y.val ≠ y'.val := fun e => hy (Fin.ext e)
    simp [hy, this]

/-- Flipping a pixel twice changes nothing. -/
theorem Display.flip_flip (d : Display) (x : Fin 64) (y : Fin 32) : (d.flip x y).flip x y = d := by
  refine Display.ext_px fun x' y' => ?_
  simp [Display.px_flip]

/-- Flips commute. -/
theorem Display.flip_comm (d : Display) (x x' : Fin 64) (y y' : Fin 32) :
    (d.flip x y).flip x' y' = (d.flip x' y').flip x y := by
  refine Display.ext_px fun a b => ?_
  simp only [Display.px_flip, Bool.xor_assoc]
  congr 1
  exact Bool.xor_comm _ _

end Sys2Proof.Machine
end

