-- ==== Sys2Proof/Laws/PerInstr.lean ====
section
/-! SUPPORT. Statements made per instruction. FixedBits: the fixed bits of an instruction's word are those
its row of spec/30_encoding.md R74 gives. -/

namespace Sys2Proof

/-- The match and mask of each instruction, copied from spec/30_encoding.md R74. -/
def Instr.fixedBits : Instr → Word × Word
  | .cls => (0x00E0, 0xFFFF)
  | .ret => (0x00EE, 0xFFFF)
  | .jp _ => (0x1000, 0xF000)
  | .call _ => (0x2000, 0xF000)
  | .seImm _ _ => (0x3000, 0xF000)
  | .sneImm _ _ => (0x4000, 0xF000)
  | .seReg _ _ => (0x5000, 0xF00F)
  | .sneReg _ _ => (0x9000, 0xF00F)
  | .ldImm _ _ => (0x6000, 0xF000)
  | .addImm _ _ => (0x7000, 0xF000)
  | .ldReg _ _ => (0x8000, 0xF00F)
  | .orReg _ _ => (0x8001, 0xF00F)
  | .andReg _ _ => (0x8002, 0xF00F)
  | .xorReg _ _ => (0x8003, 0xF00F)
  | .addReg _ _ => (0x8004, 0xF00F)
  | .sub _ _ => (0x8005, 0xF00F)
  | .shr _ _ => (0x8006, 0xF00F)
  | .subn _ _ => (0x8007, 0xF00F)
  | .shl _ _ => (0x800E, 0xF00F)
  | .ldI _ => (0xA000, 0xF000)
  | .addI _ => (0xF01E, 0xF0FF)
  | .rnd _ _ => (0xC000, 0xF000)
  | .drw _ _ _ => (0xD000, 0xF000)
  | .skp _ => (0xE09E, 0xF0FF)
  | .sknp _ => (0xE0A1, 0xF0FF)
  | .ldVxDt _ => (0xF007, 0xF0FF)
  | .ldDtVx _ => (0xF015, 0xF0FF)
  | .ldStVx _ => (0xF018, 0xF0FF)
  | .ldB _ => (0xF033, 0xF0FF)
  | .ldF _ => (0xF029, 0xF0FF)
  | .ldMemVx _ => (0xF055, 0xF0FF)
  | .ldVxMem _ => (0xF065, 0xF0FF)
  | .jpOff _ _ => (0xB000, 0xF000)
  | .ldVxK _ => (0xF00A, 0xF0FF)

namespace Laws.FixedBits

/-- The word of `i` has the fixed bits of its row (R74). -/
def Statement (i : Instr) : Prop := encode i &&& i.fixedBits.2 = i.fixedBits.1

/-- A nibble under a mask of ones. -/
theorem nibble_and_ones (b : BitVec 4) : b &&& 0xF = b := BitVec.and_allOnes

/-- A byte under a mask of ones. -/
theorem byte_and_ones (b : Byte) : b &&& 0xFF = b := BitVec.and_allOnes

/-- Format A (R72): only the major opcode is fixed. -/
theorem format_address (op : BitVec 4) (nnn : Addr12) : wordA op nnn &&& 0xF000 = op ++ (0 : Addr12) := by
  have h : (0xF000 : Word) = (0xF : BitVec 4) ++ (0 : BitVec 12) := by decide
  rw [wordA, h, BitVec.and_append, nibble_and_ones]
  exact congrArg (op ++ ·) BitVec.and_zero

/-- Format XI (R72): only the major opcode is fixed. -/
theorem format_register_byte (op : BitVec 4) (x : RegIdx) (nn : Byte) :
    wordXI op x nn &&& 0xF000 = op ++ (0 : BitVec 12) := by
  have h : (0xF000 : Word) = (0xF : BitVec 4) ++ (0 : BitVec 12) := by decide
  rw [wordXI, h, BitVec.and_append, nibble_and_ones]
  exact congrArg (op ++ ·) BitVec.and_zero

/-- Format X (R72): the major opcode and the low byte are fixed. -/
theorem format_register (op : BitVec 4) (x : RegIdx) (nn : Byte) :
    wordXI op x nn &&& 0xF0FF = op ++ ((0 : BitVec 4) ++ nn) := by
  have h : (0xF0FF : Word) = (0xF : BitVec 4) ++ ((0 : BitVec 4) ++ (0xFF : Byte)) := by decide
  rw [wordXI, h, BitVec.and_append, BitVec.and_append, nibble_and_ones, byte_and_ones]
  exact congrArg (fun k : BitVec 4 => op ++ (k ++ nn)) BitVec.and_zero

/-- Format XY (R72): the major opcode and the low nibble are fixed. -/
theorem format_two_registers (op : BitVec 4) (x y : RegIdx) (n : Nibble) :
    wordXYN op x y n &&& 0xF00F = op ++ ((0 : BitVec 4) ++ ((0 : BitVec 4) ++ n)) := by
  have h : (0xF00F : Word) = (0xF : BitVec 4) ++ ((0 : BitVec 4) ++ ((0 : BitVec 4) ++ (0xF : BitVec 4))) := by
    decide
  have h0 (k : BitVec 4) : k &&& 0 = 0 := BitVec.and_zero
  rw [wordXYN, h, BitVec.and_append, BitVec.and_append, BitVec.and_append, nibble_and_ones, nibble_and_ones,
    h0, h0]

/-- Format XYN (R72): only the major opcode is fixed. -/
theorem format_sprite (op : BitVec 4) (x y : RegIdx) (n : Nibble) :
    wordXYN op x y n &&& 0xF000 = op ++ (0 : BitVec 12) := by
  have h : (0xF000 : Word) = (0xF : BitVec 4) ++ (0 : BitVec 12) := by decide
  rw [wordXYN, h, BitVec.and_append, nibble_and_ones]
  exact congrArg (op ++ ·) BitVec.and_zero

theorem cls : Statement .cls := by unfold Statement; decide
theorem ret : Statement .ret := by unfold Statement; decide
theorem jp (nnn : Addr12) : Statement (.jp nnn) := format_address _ nnn
theorem call (nnn : Addr12) : Statement (.call nnn) := format_address _ nnn
theorem seImm (x : RegIdx) (nn : Byte) : Statement (.seImm x nn) := format_register_byte _ x nn
theorem sneImm (x : RegIdx) (nn : Byte) : Statement (.sneImm x nn) := format_register_byte _ x nn
theorem seReg (x y : RegIdx) : Statement (.seReg x y) := format_two_registers _ x y _
theorem sneReg (x y : RegIdx) : Statement (.sneReg x y) := format_two_registers _ x y _
theorem ldImm (x : RegIdx) (nn : Byte) : Statement (.ldImm x nn) := format_register_byte _ x nn
theorem addImm (x : RegIdx) (nn : Byte) : Statement (.addImm x nn) := format_register_byte _ x nn
theorem ldReg (x y : RegIdx) : Statement (.ldReg x y) := format_two_registers _ x y _
theorem orReg (x y : RegIdx) : Statement (.orReg x y) := format_two_registers _ x y _
theorem andReg (x y : RegIdx) : Statement (.andReg x y) := format_two_registers _ x y _
theorem xorReg (x y : RegIdx) : Statement (.xorReg x y) := format_two_registers _ x y _
theorem addReg (x y : RegIdx) : Statement (.addReg x y) := format_two_registers _ x y _
theorem sub (x y : RegIdx) : Statement (.sub x y) := format_two_registers _ x y _
theorem shr (x y : RegIdx) : Statement (.shr x y) := format_two_registers _ x y _
theorem subn (x y : RegIdx) : Statement (.subn x y) := format_two_registers _ x y _
theorem shl (x y : RegIdx) : Statement (.shl x y) := format_two_registers _ x y _
theorem ldI (nnn : Addr12) : Statement (.ldI nnn) := format_address _ nnn
theorem addI (x : RegIdx) : Statement (.addI x) := format_register _ x _
theorem rnd (x : RegIdx) (nn : Byte) : Statement (.rnd x nn) := format_register_byte _ x nn
theorem drw (x y : RegIdx) (n : Nibble) : Statement (.drw x y n) := format_sprite _ x y n
theorem skp (x : RegIdx) : Statement (.skp x) := format_register _ x _
theorem sknp (x : RegIdx) : Statement (.sknp x) := format_register _ x _
theorem ldVxDt (x : RegIdx) : Statement (.ldVxDt x) := format_register _ x _
theorem ldDtVx (x : RegIdx) : Statement (.ldDtVx x) := format_register _ x _
theorem ldStVx (x : RegIdx) : Statement (.ldStVx x) := format_register _ x _
theorem ldB (x : RegIdx) : Statement (.ldB x) := format_register _ x _
theorem ldF (x : RegIdx) : Statement (.ldF x) := format_register _ x _
theorem ldMemVx (x : RegIdx) : Statement (.ldMemVx x) := format_register _ x _
theorem ldVxMem (x : RegIdx) : Statement (.ldVxMem x) := format_register _ x _
theorem jpOff (nnn : Addr12) (r : RegIdx) : Statement (.jpOff nnn r) := format_address _ nnn
theorem ldVxK (x : RegIdx) : Statement (.ldVxK x) := format_register _ x _

end Laws.FixedBits

end Sys2Proof
end

