-- ==== Sys2Proof/Laws/Sequencer.lean ====
section
/-! SUPPORT. What a valid configuration gives, where a glyph stands under one, and what a step call can
do. -/

namespace Sys2Proof

/-- The three conditions of spec/70_reset_and_hazards.md R240. -/
theorem Config.valid_iff (cfg : Config) :
    cfg.valid = true ↔ 1 ≤ cfg.stackDepth ∧ cfg.fontBase + 80 ≤ 0x200 ∧ 0 < cfg.cpuHz := by
  unfold Config.valid
  rw [Bool.and_eq_true, Bool.and_eq_true, decide_eq_true_iff, decide_eq_true_iff, decide_eq_true_iff]
  exact and_assoc

namespace Machine

/-- A glyph's address does not wrap where the font ends below the entry (spec/43_index_memory.md R152). -/
theorem toNat_glyphAddr {fontBase : Nat} (b : Byte) (h : fontBase + 80 ≤ 0x200) :
    (glyphAddr fontBase b).toNat = fontBase + 5 * (b.toNat % 16) := by
  simp only [glyphAddr, glyphLen, BitVec.toNat_ofNat, BitVec.extractLsb'_toNat, Nat.shiftRight_zero]
  omega

/-- Which orders a budget admits (spec/70_reset_and_hazards.md R251). -/
theorem State.admits_iff (s : State) (budget : Rat) (order : List SeqEvent) :
    s.admits budget order = true ↔
      0 ≤ budget ∧ order.count .cycle = (s.splitBudget budget).1 ∧
        order.count .tick = (s.splitBudget budget).2.1 := by
  unfold State.admits
  rw [Bool.and_eq_true, Bool.and_eq_true, decide_eq_true_iff, beq_iff_eq, beq_iff_eq]
  exact and_assoc

/-- What a step call can do: it runs an admitted order with the new accumulators, and no other. -/
theorem stepCall_cases (budget : Rat) (order : List SeqEvent) (s : State) :
    (s.admits budget order = true ∧
        stepCall budget order s = runCall order false (s.splitBudget budget).2.2) ∨
      (s.admits budget order = false ∧ stepCall budget order s = .notAdmitted) := by
  unfold stepCall
  cases s.admits budget order <;> simp

end Machine

end Sys2Proof
end

