-- ==== Sys2Proof/Laws/Sprite.lean ====
section
/-! SUPPORT. The sprite operations of spec/44_display.md R166: which pixels a sprite names, that it names
none twice, and what the loops of DRW leave in the display and in `hit`. -/

namespace Sys2Proof.Machine

/-- What `placePixel` can name (spec/44_display.md R166). -/
theorem placePixel_eq_some (wrap : Bool) (xx yy : Nat) (p : Fin 64 × Fin 32) :
    placePixel wrap xx yy = some p ↔
      if wrap then xx % 64 = p.1.val ∧ yy % 32 = p.2.val else xx = p.1.val ∧ yy = p.2.val := by
  obtain ⟨⟨a, ha⟩, ⟨b, hb⟩⟩ := p
  unfold placePixel
  cases wrap
  · simp only [Bool.false_eq_true, if_false]
    split
    · simp
    · simp; omega
  · simp

/-- The pixels of a row are those its set bits name. -/
theorem mem_rowPixels (wrap : Bool) (x0 yy : Nat) (row : Byte) (p : Fin 64 × Fin 32) :
    p ∈ rowPixels wrap x0 yy row ↔
      ∃ c, c < 8 ∧ row.getLsbD (7 - c) = true ∧ placePixel wrap (x0 + c) yy = some p := by
  simp only [rowPixels, List.mem_filterMap, List.mem_range]
  refine exists_congr fun c => and_congr_right fun _ => ?_
  by_cases h : row.getLsbD (7 - c) = true <;> simp [h]

/-- The pixels of a sprite are those the set bits of its rows name. -/
theorem mem_spritePixels (wrap : Bool) (x0 y0 : Nat) (rows : List Byte) (p : Fin 64 × Fin 32) :
    p ∈ spritePixels wrap x0 y0 rows ↔
      ∃ r c, ∃ h : r < rows.length, c < 8 ∧ rows[r].getLsbD (7 - c) = true ∧
        placePixel wrap (x0 + c) (y0 + r) = some p := by
  induction rows generalizing y0 with
  | nil => simp [spritePixels]
  | cons row rest ih =>
    rw [spritePixels, List.mem_append, mem_rowPixels, ih]
    constructor
    · rintro (⟨c, hc⟩ | ⟨r, c, h, hc, hb, hp⟩)
      · exact ⟨0, c, by simp, hc⟩
      · exact ⟨r + 1, c, by simpa using h, hc, hb, by rw [← hp]; congr 1; omega⟩
    · rintro ⟨r, c, h, hc, hb, hp⟩
      cases r with
      | zero => exact .inl ⟨c, hc, hb, hp⟩
      | succ r => exact .inr ⟨r, c, by simpa using h, hc, hb, by rw [← hp]; congr 1; omega⟩

/-- Two columns of one row never name one pixel. -/
theorem nodup_rowPixels (wrap : Bool) (x0 yy : Nat) (row : Byte) : (rowPixels wrap x0 yy row).Nodup := by
  refine List.pairwise_filterMap.2 (List.pairwise_lt_range.imp_of_mem fun {c c'} hc hc' lt p hp q hq => ?_)
  simp only [List.mem_range] at hc hc'
  rintro rfl
  simp only [Option.ite_none_right_eq_some, placePixel_eq_some] at hp hq
  cases wrap <;> simp at hp hq <;> omega

/-- No two bits of a sprite of at most 32 rows name one pixel. -/
theorem nodup_spritePixels (wrap : Bool) (x0 y0 : Nat) (rows : List Byte) (h : rows.length ≤ 32) :
    (spritePixels wrap x0 y0 rows).Nodup := by
  induction rows generalizing y0 with
  | nil => exact .nil
  | cons row rest ih =>
    simp only [List.length_cons] at h
    refine List.nodup_append.2 ⟨nodup_rowPixels wrap x0 y0 row, ih _ (by omega), ?_⟩
    intro p hp q hq e
    subst e
    obtain ⟨c, -, -, hc⟩ := (mem_rowPixels ..).1 hp
    obtain ⟨r, c', hr, -, -, hc'⟩ := (mem_spritePixels ..).1 hq
    rw [placePixel_eq_some] at hc hc'
    cases wrap <;> simp at hc hc' <;> omega

/-- The loop of DRW with any start: each pixel is toggled as often as it is named. -/
theorem foldl_drawPixel_px (ps : List (Fin 64 × Fin 32)) (acc : Display × Bool) (hps : ps.Nodup)
    (x : Fin 64) (y : Fin 32) :
    (ps.foldl drawPixel acc).1.px x y = (acc.1.px x y ^^ decide ((x, y) ∈ ps)) := by
  induction ps generalizing acc with
  | nil => simp
  | cons p rest ih =>
    obtain ⟨hp, hps⟩ := List.nodup_cons.1 hps
    rw [List.foldl_cons, ih _ hps]
    simp only [drawPixel, Display.px_flip, List.mem_cons]
    by_cases e : (x, y) = p
    · subst e; simp [hp]
    · have : ¬ (p.1 = x ∧ p.2 = y) := fun h => e (Prod.ext h.1.symm h.2.symm)
      simp [e, this]

/-- The loop of DRW with any start: `hit` is set by a named pixel that was set. -/
theorem foldl_drawPixel_hit (ps : List (Fin 64 × Fin 32)) (acc : Display × Bool) (hps : ps.Nodup) :
    (ps.foldl drawPixel acc).2 = true ↔ acc.2 = true ∨ ∃ p ∈ ps, acc.1.px p.1 p.2 = true := by
  induction ps generalizing acc with
  | nil => simp
  | cons p rest ih =>
    obtain ⟨hp, hps⟩ := List.nodup_cons.1 hps
    rw [List.foldl_cons, ih _ hps]
    simp only [drawPixel, Bool.or_eq_true, List.mem_cons, exists_eq_or_imp, or_assoc]
    refine or_congr_right (or_congr_right (exists_congr fun q => and_congr_right fun hq => ?_))
    have : ¬ (p.1 = q.1 ∧ p.2 = q.2) := fun h => hp (Prod.ext h.1 h.2 ▸ hq)
    simp [Display.px_flip, this]

/-- What the loops of DRW leave in a pixel. -/
theorem drawPixels_px (d : Display) (ps : List (Fin 64 × Fin 32)) (h : ps.Nodup) (x : Fin 64)
    (y : Fin 32) : (drawPixels d ps).1.px x y = (d.px x y ^^ decide ((x, y) ∈ ps)) :=
  foldl_drawPixel_px ps _ h x y

/-- What the loops of DRW leave in `hit`. -/
theorem drawPixels_hit (d : Display) (ps : List (Fin 64 × Fin 32)) (h : ps.Nodup) :
    (drawPixels d ps).2 = true ↔ ∃ p ∈ ps, d.px p.1 p.2 = true :=
  (foldl_drawPixel_hit ps (d, false) h).trans (by simp)

/-- What the reading of a sprite's rows can do (R166): it answers none exactly past the end of memory. -/
theorem State.spriteRows_cases (s : State) (n : Nibble) :
    (n.toNat ≥ 1 ∧ s.i.toNat + n.toNat - 1 > 0xFFF ∧ s.spriteRows n = none) ∨
      ((n.toNat = 0 ∨ s.i.toNat + n.toNat - 1 ≤ 0xFFF) ∧
        s.spriteRows n = some ((List.range n.toNat).map fun k => s.readByte (s.i.toNat + k))) := by
  unfold State.spriteRows
  by_cases h : n = 0
  · subst h; exact .inr ⟨.inl rfl, rfl⟩
  · have hn : n.toNat ≠ 0 := fun e => h (BitVec.eq_of_toNat_eq e)
    rw [if_neg h]
    rcases s.memRead_cases s.i.toNat n.toNat with ⟨g, e⟩ | ⟨g, e⟩
    · exact .inl ⟨by omega, g, e⟩
    · exact .inr ⟨.inr g, e⟩

end Sys2Proof.Machine
end

