-- ==== Sys2Proof/Machine/Assembly.lean ====
section
/-! DEFINITION. The decoded record's mnemonic (spec/30_encoding.md R80) and the assembler syntax of R81, in
which the disassembly query (R83) is read. Text only: no instruction's meaning reads it. -/

namespace Sys2Proof.Machine

/-- A hexadecimal digit. -/
def hexDigit (d : BitVec 4) : String :=
  ["0", "1", "2", "3", "4", "5", "6", "7", "8", "9", "A", "B", "C", "D", "E", "F"].getD d.toNat ""

/-- The register `Vx`, V0 to VF (R81). -/
def regText (x : RegIdx) : String := "V" ++ hexDigit x

/-- A byte, `0xhh`. -/
def byteText (b : Byte) : String := "0x" ++ hexDigit (b.extractLsb' 4 4) ++ hexDigit (b.extractLsb' 0 4)

/-- An address, `0xhhh`. -/
def addrText (a : Addr12) : String :=
  "0x" ++ hexDigit (a.extractLsb' 8 4) ++ hexDigit (a.extractLsb' 4 4) ++ hexDigit (a.extractLsb' 0 4)

/-- A word, `0xhhhh`. -/
def wordText (w : Word) : String :=
  "0x" ++ hexDigit (w.extractLsb' 12 4) ++ hexDigit (w.extractLsb' 8 4) ++
    hexDigit (w.extractLsb' 4 4) ++ hexDigit (w.extractLsb' 0 4)

/-- The height of a sprite, decimal. -/
def heightText (n : Nibble) : String :=
  ["0", "1", "2", "3", "4", "5", "6", "7", "8", "9", "10", "11", "12", "13", "14", "15"].getD n.toNat ""

/-- The row name of an instruction (R74, R80). -/
def mnemonic : Instr → String
  | .cls => "CLS"
  | .ret => "RET"
  | .jp _ => "JP"
  | .call _ => "CALL"
  | .seImm _ _ => "SE_IMM"
  | .sneImm _ _ => "SNE_IMM"
  | .seReg _ _ => "SE_REG"
  | .sneReg _ _ => "SNE_REG"
  | .ldImm _ _ => "LD_IMM"
  | .addImm _ _ => "ADD_IMM"
  | .ldReg _ _ => "LD_REG"
  | .orReg _ _ => "OR"
  | .andReg _ _ => "AND"
  | .xorReg _ _ => "XOR"
  | .addReg _ _ => "ADD_REG"
  | .sub _ _ => "SUB"
  | .shr _ _ => "SHR"
  | .subn _ _ => "SUBN"
  | .shl _ _ => "SHL"
  | .ldI _ => "LD_I"
  | .addI _ => "ADD_I"
  | .rnd _ _ => "RND"
  | .drw _ _ _ => "DRW"
  | .skp _ => "SKP"
  | .sknp _ => "SKNP"
  | .ldVxDt _ => "LD_VX_DT"
  | .ldDtVx _ => "LD_DT_VX"
  | .ldStVx _ => "LD_ST_VX"
  | .ldB _ => "LD_B"
  | .ldF _ => "LD_F"
  | .ldMemVx _ => "LD_MEM_VX"
  | .ldVxMem _ => "LD_VX_MEM"
  | .jpOff _ _ => "JP_OFF"
  | .ldVxK _ => "LD_VX_K"

/-- Two operands after an operation's name. -/
def two (op a b : String) : String := op ++ " " ++ a ++ ", " ++ b

/-- An instruction in the syntax of R81; `JP V0, nnn` is written so whatever Q_JUMP_VX is. -/
def assembly : Instr → String
  | .cls => "CLS"
  | .ret => "RET"
  | .jp nnn => "JP " ++ addrText nnn
  | .call nnn => "CALL " ++ addrText nnn
  | .seImm x nn => two "SE" (regText x) (byteText nn)
  | .sneImm x nn => two "SNE" (regText x) (byteText nn)
  | .seReg x y => two "SE" (regText x) (regText y)
  | .sneReg x y => two "SNE" (regText x) (regText y)
  | .ldImm x nn => two "LD" (regText x) (byteText nn)
  | .addImm x nn => two "ADD" (regText x) (byteText nn)
  | .ldReg x y => two "LD" (regText x) (regText y)
  | .orReg x y => two "OR" (regText x) (regText y)
  | .andReg x y => two "AND" (regText x) (regText y)
  | .xorReg x y => two "XOR" (regText x) (regText y)
  | .addReg x y => two "ADD" (regText x) (regText y)
  | .sub x y => two "SUB" (regText x) (regText y)
  | .shr x y => two "SHR" (regText x) (regText y)
  | .subn x y => two "SUBN" (regText x) (regText y)
  | .shl x y => two "SHL" (regText x) (regText y)
  | .ldI nnn => two "LD" "I" (addrText nnn)
  | .addI x => two "ADD" "I" (regText x)
  | .rnd x nn => two "RND" (regText x) (byteText nn)
  | .drw x y n => two "DRW" (regText x) (regText y) ++ ", " ++ heightText n
  | .skp x => "SKP " ++ regText x
  | .sknp x => "SKNP " ++ regText x
  | .ldVxDt x => two "LD" (regText x) "DT"
  | .ldDtVx x => two "LD" "DT" (regText x)
  | .ldStVx x => two "LD" "ST" (regText x)
  | .ldB x => two "LD" "B" (regText x)
  | .ldF x => two "LD" "F" (regText x)
  | .ldMemVx x => two "LD" "[I]" (regText x)
  | .ldVxMem x => two "LD" (regText x) "[I]"
  | .jpOff nnn _ => two "JP" "V0" (addrText nnn)
  | .ldVxK x => two "LD" (regText x) "K"

/-- A decoded word as text: an instruction's syntax, or the data directive of a raw word (R81). -/
def decodedText : Decoded → String
  | .known i => assembly i
  | .unknown w => "DW " ++ wordText w

end Sys2Proof.Machine
end

