-- ==== Sys2Proof/Tests/Slice0.lean ====
section
/-! SUPPORT. Tests. The words and the expected results are those of spec/95_test_vectors.md, whose vector
each comment names, or are worked out by hand from the rule it names; then a witness for the hypotheses of
each statement that has some. -/

namespace Sys2Proof.Tests

open Sys2Proof.Machine

/-! ## Small states -/

/-- The reset state under a changed configuration. -/
def under (change : Config → Config) : State := State.fresh (change Config.atReset)

/-- The outcome of one Cycle, with the random byte 0xA7, on the word `w` placed at `pc`; `none` where it
answers no next state. -/
def run (w : Word) (s : State) : Option State :=
  match cycle (some 0xA7) (s.placeWord w) with
  | .next t => some t
  | _ => none

/-- Whether an outcome is the next state `t`. -/
def reaches (o : StepOutcome) (t : State) : Bool :=
  match o with
  | .next u => decide (u = t)
  | _ => false

/-- What `look` shows of the state after one Cycle on `w`. -/
def shows {α : Type} (w : Word) (s : State) (look : State → α) : Option α := (run w s).map look

/-- Two registers of a state. -/
def pair (x y : RegIdx) (t : State) : Byte × Byte := (t.readV x, t.readV y)

/-- Some bytes of memory. -/
def bytesAt (a n : Nat) (t : State) : List Byte := (List.range n).map fun k => t.readByte (a + k)

/-- The reset state with bytes at an address and I there. -/
def holding (a : Nat) (bytes : List Byte) : State :=
  (State.reset.storeBytes a bytes).setI (BitVec.ofNat 16 a)

/-- The reset state with `k` return addresses on the stack. -/
def deep (k : Nat) : State := { State.reset with stack := List.replicate k 0x202 }

/-- The reset state awaiting a key for V3, under a mode. -/
def waiting (mode : KeyWaitMode) : State :=
  { under (fun c => { c with keyWaitMode := mode }) with awaiting := true, waitReg := 3 }

/-- A wait in edge mode, begun with key 5 held. -/
def heldEdgeWait : State :=
  { keyPress 5 (under fun c => { c with keyWaitMode := .edge }) with awaiting := true }

/-- The reset state with a latched fault. -/
def faulted : State :=
  { State.reset with fault := some ⟨.unknownOpcode, 0x200, some 0x0000⟩, dt := 5 }

/-! ## Well-formedness: each check refuses an ill-formed term (R75, R240) -/

theorem test_wellformed_refuses_wrong_offset_register :
    (Instr.jpOff 0x300 3).wellFormed Config.atReset = false ∧
    (Instr.jpOff 0x300 0).wellFormed { Config.atReset with qJumpVx := true } = false ∧
    (Instr.jpOff 0x300 0).wellFormed Config.atReset = true := by decide

theorem test_config_refuses_each_broken_condition :
    ({ Config.atReset with stackDepth := 0 } : Config).valid = false ∧
    ({ Config.atReset with fontBase := 0x1B1 } : Config).valid = false ∧
    ({ Config.atReset with cpuHz := 0 } : Config).valid = false ∧
    ({ Config.atReset with stackDepth := 1, fontBase := 0x1B0 } : Config).valid = true := by decide

/-! ## Decoding: words written out from R71, R72 and R74 -/

theorem test_decode_screen_and_return :
    decode Config.atReset 0b0000000011100000 = .known .cls ∧
    decode Config.atReset 0b0000000011101110 = .known .ret := by decide

theorem test_decode_addresses :
    decode Config.atReset 0b0001000000000000 = .known (.jp 0x000) ∧
    decode Config.atReset 0b0001111111111111 = .known (.jp 0xFFF) ∧
    decode Config.atReset 0b0010001000000100 = .known (.call 0x204) ∧
    decode Config.atReset 0b1010001100000001 = .known (.ldI 0x301) := by decide

/-- E7. -/
theorem test_decode_jump_offset :
    decode Config.atReset 0b1011001100000000 = .known (.jpOff 0x300 0) ∧
    decode { Config.atReset with qJumpVx := true } 0b1011001100000000 = .known (.jpOff 0x300 3) := by
  decide

theorem test_decode_register_and_byte :
    decode Config.atReset 0b0011101000000101 = .known (.seImm 0xA 0x05) ∧
    decode Config.atReset 0b0100101000000101 = .known (.sneImm 0xA 0x05) ∧
    decode Config.atReset 0b0110000000001010 = .known (.ldImm 0x0 0x0A) ∧
    decode Config.atReset 0b0111000111111111 = .known (.addImm 0x1 0xFF) ∧
    decode Config.atReset 0b1100111100001111 = .known (.rnd 0xF 0x0F) := by decide

theorem test_decode_two_registers :
    decode Config.atReset 0b0101000100100000 = .known (.seReg 1 2) ∧
    decode Config.atReset 0b1001000100100000 = .known (.sneReg 1 2) ∧
    decode Config.atReset 0b1000000100100000 = .known (.ldReg 1 2) ∧
    decode Config.atReset 0b1000000100100001 = .known (.orReg 1 2) ∧
    decode Config.atReset 0b1000000100100010 = .known (.andReg 1 2) ∧
    decode Config.atReset 0b1000000100100011 = .known (.xorReg 1 2) ∧
    decode Config.atReset 0b1000000100100100 = .known (.addReg 1 2) ∧
    decode Config.atReset 0b1000000100100101 = .known (.sub 1 2) ∧
    decode Config.atReset 0b1000000100100110 = .known (.shr 1 2) ∧
    decode Config.atReset 0b1000000100100111 = .known (.subn 1 2) ∧
    decode Config.atReset 0b1000000100101110 = .known (.shl 1 2) ∧
    decode Config.atReset 0b1101000000010101 = .known (.drw 0 1 5) := by decide

theorem test_decode_one_register :
    decode Config.atReset 0b1110001110011110 = .known (.skp 3) ∧
    decode Config.atReset 0b1110001110100001 = .known (.sknp 3) ∧
    decode Config.atReset 0b1111010000000111 = .known (.ldVxDt 4) ∧
    decode Config.atReset 0b1111001100001010 = .known (.ldVxK 3) ∧
    decode Config.atReset 0b1111010000010101 = .known (.ldDtVx 4) ∧
    decode Config.atReset 0b1111010100011000 = .known (.ldStVx 5) ∧
    decode Config.atReset 0b1111000100011110 = .known (.addI 1) ∧
    decode Config.atReset 0b1111101000101001 = .known (.ldF 0xA) ∧
    decode Config.atReset 0b1111000000110011 = .known (.ldB 0) ∧
    decode Config.atReset 0b1111111101010101 = .known (.ldMemVx 0xF) ∧
    decode Config.atReset 0b1111001101100101 = .known (.ldVxMem 3) := by decide

/-- E11 to E17: no word of these is an instruction. -/
theorem test_decode_unknown_words :
    ([0x0000, 0x00E1, 0x00EF, 0x00FF, 0x0123, 0x5121, 0x5AB1, 0x8128, 0x8129, 0x812D, 0x812F, 0x9AB1,
      0xE100, 0xE09D, 0xE19F, 0xF000, 0xF01F, 0xF175, 0xF0FF, 0xFFFF] : List Word).all
        (fun w => decode Config.atReset w == .unknown w) = true := by decide

/-- The bytes of a word stand high byte first (R54); fewer than two bytes decode to nothing. -/
theorem test_decode_bytes :
    decodeBytes Config.atReset [0x60, 0x0A, 0x61] = some (.known (.ldImm 0 0x0A), [0x61]) ∧
    decodeBytes Config.atReset [0x60] = none ∧
    encodeBytes (.drw 0 1 5) = [0xD0, 0x15] ∧
    decodeTableWord 16 0xF30A = some (.ldVxK 3) ∧ decodeTableWord 16 0x0000 = none := by decide

/-! ## Control flow (vectors F) -/

/-- F1. -/
theorem test_ret_underflow : shows 0x00EE State.reset (fun t => (t.fault, t.pc, t.stack)) =
    some (some ⟨.stackUnderflow, 0x200, some 0x00EE⟩, 0x202, []) := by decide

/-- S2: the newest address is popped. -/
theorem test_ret_pops : shows 0x00EE { State.reset with stack := [0x208, 0x202] }
    (fun t => (t.pc, t.stack)) = some (0x202, [0x208]) := by decide

/-- F19, F3. -/
theorem test_jp : shows 0x1200 State.reset (·.pc) = some 0x200 ∧
    shows 0x1FFF State.reset (·.pc) = some 0xFFF := by decide

/-- S2. -/
theorem test_call_pushes : shows 0x2204 State.reset (fun t => (t.pc, t.stack)) =
    some (0x204, [0x202]) := by decide

/-- F2: the sixteenth entry fits, the seventeenth does not. -/
theorem test_call_overflow : shows 0x2200 (deep 15) (fun t => (t.fault, t.stack.length)) = some (none, 16) ∧
    shows 0x2200 (deep 16) (fun t => (t.fault, t.pc, t.stack.length)) =
      some (some ⟨.stackOverflow, 0x200, some 0x2200⟩, 0x202, 16) := by decide

/-- F5, F6. -/
theorem test_jump_offset_register :
    shows 0xB300 ((State.reset.writeV 0 0x10).writeV 3 0x20) (·.pc) = some 0x310 ∧
    shows 0xB300 (((under fun c => { c with qJumpVx := true }).writeV 0 0x10).writeV 3 0x20) (·.pc) =
      some 0x320 := by decide

/-- F7: the sum is not reduced. -/
theorem test_jump_offset_not_reduced : shows 0xBFFF (State.reset.writeV 0 0xFF) (·.pc) = some 0x10FE := by
  decide

/-- F8, F9. -/
theorem test_se_imm : shows 0x3A05 (State.reset.writeV 0xA 0x05) (·.pc) = some 0x204 ∧
    shows 0x3A05 (State.reset.writeV 0xA 0x06) (·.pc) = some 0x202 := by decide

/-- F10, F11. -/
theorem test_sne_imm : shows 0x4A05 (State.reset.writeV 0xA 0x05) (·.pc) = some 0x202 ∧
    shows 0x4A05 (State.reset.writeV 0xA 0x06) (·.pc) = some 0x204 := by decide

/-- F12, F13. -/
theorem test_se_reg : shows 0x5120 ((State.reset.writeV 1 0x07).writeV 2 0x07) (·.pc) = some 0x204 ∧
    shows 0x5120 ((State.reset.writeV 1 0x07).writeV 2 0x08) (·.pc) = some 0x202 := by decide

/-- F14, F15. -/
theorem test_sne_reg : shows 0x9120 ((State.reset.writeV 1 0x07).writeV 2 0x08) (·.pc) = some 0x204 ∧
    shows 0x9120 ((State.reset.writeV 1 0x07).writeV 2 0x07) (·.pc) = some 0x202 := by decide

/-! ## The cycle (vectors F) -/

/-- F3, F4: the last word of memory is fetched, the address after it is not. -/
theorem test_fetch_at_the_top :
    reaches (cycle none (State.reset.setPc 0xFFF))
      { State.reset with pc := 0xFFF, fault := some ⟨.memoryOutOfBounds, 0xFFF, none⟩ } = true ∧
    reaches (cycle none ((under fun c => { c with unknownPolicy := .skip }).setPc 0xFFE))
      { under (fun c => { c with unknownPolicy := .skip }) with
        pc := 0x1000, lastInst := some (0x0000, .unknown 0x0000) } = true := by decide

/-- F18: a fetch at an odd address. -/
theorem test_fetch_at_an_odd_address :
    reaches (cycle none ((State.reset.storeBytes 0x200 [0x12, 0x01, 0x6A, 0x55]).setPc 0x201))
      { State.reset.storeBytes 0x200 [0x12, 0x01, 0x6A, 0x55] with
        pc := 0x203, lastInst := some (0x016A, .unknown 0x016A),
        fault := some ⟨.unknownOpcode, 0x201, some 0x016A⟩ } = true := by decide

/-- F2, T11: neither a cycle nor a tick moves a faulted core. -/
theorem test_faulted_core :
    reaches (cycle (some 1) faulted) faulted = true ∧ tick60 faulted = faulted := by decide

/-! ## Arithmetic and logic (vectors A) -/

/-- A27. -/
theorem test_ld_imm : shows 0x6ABC (State.reset.writeV 15 0x07) (pair 0xA 15) = some (0xBC, 0x07) := by
  decide

/-- A9, A23. -/
theorem test_add_imm : shows 0x7FFF (State.reset.writeV 15 0x01) (·.readV 15) = some 0x00 ∧
    shows 0x7001 (State.reset.writeV 0 0xFF) (pair 0 15) = some (0x00, 0x00) := by decide

/-- A21. -/
theorem test_ld_reg : shows 0x8120 (State.reset.writeV 2 0x33) (pair 1 2) = some (0x33, 0x33) := by decide

/-- A7, A8. -/
theorem test_or_into_vf : shows 0x8F11 ((State.reset.writeV 15 0x0F).writeV 1 0xF0) (·.readV 15) =
      some 0xFF ∧
    shows 0x8F11 (((under fun c => { c with qLogicVfReset := true }).writeV 15 0x0F).writeV 1 0xF0)
      (·.readV 15) = some 0x00 := by decide

/-- A22. -/
theorem test_or : shows 0x8121 (((State.reset.writeV 1 0xCC).writeV 2 0xAA).writeV 15 0x07) (pair 1 15) =
    some (0xEE, 0x07) := by decide

/-- A22. -/
theorem test_and : shows 0x8122 (((State.reset.writeV 1 0xCC).writeV 2 0xAA).writeV 15 0x07) (pair 1 15) =
      some (0x88, 0x07) ∧
    shows 0x8122 ((((under fun c => { c with qLogicVfReset := true }).writeV 1 0xCC).writeV 2 0xAA).writeV
      15 0x07) (pair 1 15) = some (0x88, 0x00) := by decide

/-- A22, A20. -/
theorem test_xor : shows 0x8123 (((State.reset.writeV 1 0xCC).writeV 2 0xAA).writeV 15 0x07) (pair 1 15) =
      some (0x66, 0x07) ∧
    shows 0x8113 (State.reset.writeV 1 0x5A) (·.readV 1) = some 0x00 := by decide

/-- A24: 0xC8 and 0x64. -/
theorem test_add_reg : shows 0x8124 ((State.reset.writeV 1 0xC8).writeV 2 0x64) (pair 1 15) =
    some (0x2C, 0x01) := by decide

/-- A1, A3: VF as destination and as source. -/
theorem test_add_reg_vf : shows 0x8FF4 (State.reset.writeV 15 0x80) (·.readV 15) = some 0x01 ∧
    shows 0x80F4 ((State.reset.writeV 0 0x01).writeV 15 0xFF) (pair 0 15) = some (0x00, 0x01) := by decide

/-- A11, A10. -/
theorem test_sub : shows 0x8015 (State.reset.writeV 1 0x01) (pair 0 15) = some (0xFF, 0x00) ∧
    shows 0x8005 (State.reset.writeV 0 0x07) (pair 0 15) = some (0x00, 0x01) := by decide

/-- A12, A25. -/
theorem test_subn : shows 0x8017 (State.reset.writeV 0 0x01) (pair 0 15) = some (0xFF, 0x00) ∧
    shows 0x8127 ((State.reset.writeV 1 0x10).writeV 2 0x20) (pair 1 15) = some (0x10, 0x01) := by decide

/-- A16. -/
theorem test_shr_source : shows 0x81F6
      (((under fun c => { c with qShiftVy := true }).writeV 1 0x10).writeV 15 0x03) (pair 1 15) =
      some (0x01, 0x01) ∧
    shows 0x81F6 ((State.reset.writeV 1 0x10).writeV 15 0x03) (pair 1 15) = some (0x08, 0x00) := by decide

/-- A5, A6. -/
theorem test_shr_into_vf : shows 0x8F06 (State.reset.writeV 15 0x03) (·.readV 15) = some 0x01 ∧
    shows 0x8F06 (State.reset.writeV 15 0x02) (·.readV 15) = some 0x00 := by decide

/-- A14. -/
theorem test_shl : shows 0x800E (State.reset.writeV 0 0xFF) (pair 0 15) = some (0xFE, 0x01) := by decide

/-- A26. -/
theorem test_shl_into_vf : shows 0x8F1E ((under fun c => { c with qShiftVy := true }).writeV 1 0x81)
      (·.readV 15) = some 0x01 ∧
    shows 0x8F1E (State.reset.writeV 15 0x81) (·.readV 15) = some 0x01 := by decide

/-- A17, A19, with the byte 0xA7: 0xA7 and 0x0F is 0x07. -/
theorem test_rnd : shows 0xC0FF State.reset (fun t => (t.readV 0, t.draws)) = some (0xA7, 1) ∧
    shows 0xCF0F State.reset (·.readV 15) = some 0x07 := by decide

/-- The byte of a scheduled Cycle reaches RND. -/
theorem test_rnd_from_the_schedule :
    (match step { State.reset.storeBytes 0x200 [0xC0, 0xFF] with schedule := [.cycle 0xA7] } with
      | .next t => some (t.readV 0)
      | _ => none) = some 0xA7 := by decide

/-! ## Index register and memory (vectors M) -/

/-- M0. -/
theorem test_ld_i : shows 0xAFFF State.reset (·.i) = some 0x0FFF := by decide

/-- M5, M6. -/
theorem test_add_i :
    shows 0xF11E (((State.reset.setI 0xFFFF).writeV 1 0x01).writeV 15 0x07) (fun t => (t.i, t.readV 15)) =
      some (0x0000, 0x07) ∧
    shows 0xF11E ((State.reset.setI 0x0FFE).writeV 1 0x05) (·.i) = some 0x1003 := by decide

/-- M7, Z5. -/
theorem test_ld_f : shows 0xF229 (State.reset.writeV 2 0x1F) (·.i) = some 0x009B ∧
    shows 0xF229 ((under fun c => { c with fontBase := 0 }).writeV 2 0x01) (·.i) = some 0x0005 := by decide

/-- M1, M13. -/
theorem test_ld_b : shows 0xF033 ((State.reset.setI 0xFFD).writeV 0 0xFF)
      (fun t => (t.fault, bytesAt 0xFFD 3 t)) = some (none, [0x02, 0x05, 0x05]) ∧
    shows 0xF033 ((State.reset.setI 0x300).writeV 0 0x9C) (bytesAt 0x300 3) =
      some [0x01, 0x05, 0x06] := by decide

/-- M2. -/
theorem test_ld_b_past_the_end : shows 0xF033 ((State.reset.setI 0xFFE).writeV 0 0xFF)
    (fun t => (t.fault, bytesAt 0xFFE 2 t, t.i)) =
      some (some ⟨.memoryOutOfBounds, 0x200, some 0xF033⟩, [0x00, 0x00], 0xFFE) := by decide

/-- M3 with V0 and VF marked. -/
theorem test_block_store_at_the_top :
    shows 0xFF55 (((State.reset.setI 0xFF0).writeV 0 0x01).writeV 15 0x10)
      (fun t => (t.fault, t.readByte 0xFF0, t.readByte 0xFFF, t.i)) =
      some (none, 0x01, 0x10, 0xFF0) := by decide

/-- M4. -/
theorem test_block_store_past_the_end :
    shows 0xFF55 (((under fun c => { c with qMemIncI := true }).setI 0xFF1).writeV 0 0x01)
      (fun t => (t.fault, t.readByte 0xFF1, t.i)) =
      some (some ⟨.memoryOutOfBounds, 0x200, some 0xFF55⟩, 0x00, 0xFF1) := by decide

/-- M9. -/
theorem test_block_load : shows 0xF365 ((under fun c => { c with qMemIncI := true }).setI 0x050)
    (fun t => (t.readVs 5, t.i)) = some ([0xF0, 0x90, 0x90, 0x90, 0x00], 0x054) := by decide

/-- M10, M11. -/
theorem test_block_load_past_the_end :
    shows 0xF065 ((State.reset.setI 0xFFF).writeV 0 0x09) (fun t => (t.fault, t.readV 0)) =
      some (none, 0x00) ∧
    shows 0xF165 ((State.reset.setI 0xFFF).writeV 0 0x09) (fun t => (t.fault, t.readV 0)) =
      some (some ⟨.memoryOutOfBounds, 0x200, some 0xF165⟩, 0x09) := by decide

/-- M15: what LD_MEM_VX stored is fetched by the next cycle. -/
theorem test_store_is_fetched_at_once :
    ((run 0xF055 ((State.reset.setI 0x202).writeV 0 0x12)).bind (·.fetch)) = some 0x1200 := by decide

/-! ## Display (vectors D) -/

/-- D9. -/
theorem test_cls :
    shows 0x00E0 { State.reset.writeV 15 0x01 with display := Vector.replicate 32 (BitVec.allOnes 64) }
      (fun t => (t.display, t.readV 15)) = some (Display.blank, 0x01) := by decide

/-- D1, D2: rows 31 and 0 after the draw at (60, 31). -/
theorem test_drw_edges :
    shows 0xD012 (((holding 0x300 [0xFF, 0xFF]).writeV 0 0x3C).writeV 1 0x1F)
      (fun t => (t.display[31], t.display[0], t.readV 15)) = some (0xF000000000000000, 0, 0) ∧
    shows 0xD012 ({ ((holding 0x300 [0xFF, 0xFF]).writeV 0 0x3C).writeV 1 0x1F with
        config := { Config.atReset with qDrawWrap := true } })
      (fun t => (t.display[31], t.display[0], t.readV 15)) =
      some (0xF00000000000000F, 0xF00000000000000F, 0) := by decide

/-- D8, D6, D4: a collision, the bound, and no row at all. -/
theorem test_drw_flag_and_bounds :
    shows 0xD011 { holding 0x300 [0xC0] with display := Display.blank.flip 0 0 }
      (fun t => (t.display[0], t.readV 15)) = some (2, 1) ∧
    shows 0xD012 ((holding 0xFFF [0xC0]).writeV 15 0x01) (fun t => (t.fault, t.display, t.readV 15)) =
      some (some ⟨.memoryOutOfBounds, 0x200, some 0xD012⟩, Display.blank, 0x01) ∧
    shows 0xD010 ((State.reset.setI 0x1000).writeV 15 0x01) (fun t => (t.fault, t.readV 15)) =
      some (none, 0x00) := by decide

/-! ## Keypad, key wait, timers (vectors K, W, T) -/

/-- K1, K2, K8. -/
theorem test_skp :
    shows 0xE19E ((keyPress 7 (keyPress 5 State.reset)).writeV 1 0x05) (·.pc) = some 0x202 ∧
    shows 0xE19E ((keyPress 7 (keyPress 5 (under fun c => { c with keySkipSource := .flags }))).writeV 1
      0x05) (·.pc) = some 0x204 ∧
    shows 0xE19E ((keyPress 5 State.reset).writeV 1 0x15) (·.pc) = some 0x204 := by decide

/-- K4, K5, K12. -/
theorem test_sknp :
    shows 0xE1A1 ((keyPress 7 (keyPress 5 State.reset)).writeV 1 0x05) (·.pc) = some 0x204 ∧
    shows 0xE1A1 ((keyPress 7 (keyPress 5 (under fun c => { c with keySkipSource := .flags }))).writeV 1
      0x05) (·.pc) = some 0x202 ∧
    shows 0xE1A1 ((keyPress 5 State.reset).writeV 1 0x05) (·.pc) = some 0x202 := by decide

/-- K6: the tracker does not fall back. -/
theorem test_key_release :
    (keyRelease 7 (keyPress 7 (keyPress 5 State.reset))).lastPressed = none ∧
    (keyRelease 5 (keyPress 7 (keyPress 5 State.reset))).lastPressed = some 7 := by decide

/-- W1: the first cycle. -/
theorem test_ld_vx_k : shows 0xF30A (keyPress 5 State.reset)
    (fun t => (t.awaiting, t.waitReg, t.pc, t.readV 3)) = some (true, 3, 0x202, 0x00) := by decide

/-- W1, W3: the second cycle in level mode. -/
theorem test_level_wait :
    reaches (cycle none (keyPress 5 (waiting .level)))
      { (keyPress 5 (waiting .level)).writeV 3 0x05 with awaiting := false } = true ∧
    reaches (cycle none (waiting .level)) (waiting .level) = true := by decide

/-- W2, W6e: a held key does not end an edge wait; a press latched and released again does. -/
theorem test_edge_wait :
    reaches (cycle none heldEdgeWait) heldEdgeWait = true ∧
    (keyRelease 9 (keyPress 9 (waiting .edge))).waitLatch = some 9 ∧
    (match cycle none (keyRelease 9 (keyPress 9 (waiting .edge))) with
      | .next t => some (t.readV 3, t.awaiting, t.waitLatch)
      | _ => none) = some (0x09, false, none) := by decide

/-- T8. -/
theorem test_ld_vx_dt : shows 0xF407 (State.reset.setDT 0x2A) (fun t => (t.readV 4, t.dt)) =
    some (0x2A, 0x2A) := by decide

/-- T9. -/
theorem test_ld_dt_vx : shows 0xF415 (State.reset.writeV 4 0x3C) (·.dt) = some 0x3C := by decide

/-- T4, T7. -/
theorem test_ld_st_vx_crossings :
    shows 0xF518 { State.reset with st := 0x04 } (fun t => (t.st, t.sounds)) = some (0x00, [.stop]) ∧
    shows 0xF518 (State.reset.writeV 5 0x02) (fun t => (t.st, t.sounds)) = some (0x02, [.start]) := by
  decide

/-- T5, T6. -/
theorem test_ld_st_vx_silent :
    shows 0xF518 { State.reset.writeV 5 0x09 with st := 0x04 } (fun t => (t.st, t.sounds)) =
      some (0x09, []) ∧
    shows 0xF518 State.reset (fun t => (t.st, t.sounds)) = some (0x00, []) := by decide

/-- T1 to T3. -/
theorem test_tick60 :
    tick60 { State.reset with dt := 2, st := 1 } = { State.reset with dt := 1, st := 0, sounds := [.stop] } ∧
    tick60 { State.reset with dt := 1 } = State.reset ∧ tick60 State.reset = State.reset := by decide

/-! ## UNKNOWN, reset, step call, queries -/

/-- The two policies of spec/95_test_vectors.md 2.9. -/
theorem test_unknown_policies :
    shows 0x5121 State.reset (fun t => (t.fault, t.pc, t.lastInst)) =
      some (some ⟨.unknownOpcode, 0x200, some 0x5121⟩, 0x202, some (0x5121, .unknown 0x5121)) ∧
    shows 0x5121 (under fun c => { c with unknownPolicy := .skip }) (fun t => (t.fault, t.pc)) =
      some (none, 0x202) := by decide

/-- Z1, S4: the font's first and last byte, the bytes beside it, and the entry. -/
theorem test_reset_memory :
    [0x04F, 0x050, 0x09F, 0x0A0, 0x200].map State.reset.readByte = [0x00, 0xF0, 0x80, 0x00, 0x00] ∧
    State.reset.pc = 0x200 := by decide

/-- Z4: a Reset clears a latched fault and loads its image. -/
theorem test_reset_event :
    (match resetMachine [0x60, 0x0A] Config.atReset faulted with
      | .next t => some (t.fault, t.pc, t.dt, t.fetch)
      | _ => none) = some (none, 0x200, 0, some 0x600A) := by decide

/-- R251: one second is 60 ticks and, at the reset rate, 500 cycles. -/
theorem test_budget : (State.reset.splitBudget 1).1 = 500 ∧ (State.reset.splitBudget 1).2.1 = 60 ∧
    State.reset.admits (1 / 60) (List.replicate 8 .cycle ++ [.tick]) = true := by decide +kernel

/-- R252: a cycle that awaits a key ends the cycles of the call, not its ticks. -/
theorem test_step_call_ends_at_a_wait :
    (match stepCall (1 / 60) (List.replicate 8 .cycle ++ [.tick])
        { State.reset.storeBytes 0x200 [0xF3, 0x0A, 0x64, 0x01] with dt := 3 } with
      | .ended .keyWait t => some (t.pc, t.dt)
      | _ => none) = some (0x202, 2) := by decide +kernel

/-- R251: no other count of events than the budget's is run, and no budget below zero. -/
theorem test_step_call_runs_only_the_budget :
    stepCall 1 [] State.reset = .notAdmitted ∧
    stepCall (1 / 60) [.cycle, .cycle, .tick] State.reset = .notAdmitted ∧
    stepCall (-1) [] State.reset = .notAdmitted := by decide +kernel

/-- The codes of R200, and the columns of LoadError. -/
theorem test_error_codes :
    Fault.loadError.output = (1, none, none) ∧
    [FaultKind.unknownOpcode, .stackOverflow, .stackUnderflow, .memoryOutOfBounds].map FaultKind.code =
      [2, 3, 4, 5] := by decide

/-- R220, R222: the first pixels of a snapshot, and a disassembly. -/
theorem test_queries :
    (displayRead { State.reset with display := Display.blank.flip 1 0 }).pixels.take 3 =
      [false, true, false] ∧
    disassemble 0xB300 (under fun c => { c with qJumpVx := true }) = .known (.jpOff 0x300 3) := by decide

/-- The assembly of programs P1, P3 and P4 (R81). -/
theorem test_assembly :
    [0x600A, 0x8014, 0xF265, 0xD015, 0x120E, 0xFA29, 0x0000].map
      (fun w => decodedText (decode Config.atReset w)) =
    ["LD V0, 0x0A", "ADD V0, V1", "LD V2, [I]", "DRW V0, V1, 5", "JP 0x20E", "LD F, VA", "DW 0x0000"] := by
  decide

/-! ## Witnesses: states and operands that meet the hypotheses of the statements, clause by clause -/

/-- A valid configuration whose font ends at the entry, with the quirks on. -/
def quirky : Config :=
  { Config.atReset with
    qShiftVy := true, qLogicVfReset := true, qMemIncI := true, qJumpVx := true, qDrawWrap := true,
    fontBase := 0x1B0, stackDepth := 1, keySkipSource := .flags, keyWaitMode := .edge,
    unknownPolicy := .skip }

/-- The reset state at the last address that can be fetched, with an instruction word there. -/
def atTop : State := (State.reset.storeBytes 0xFFE [0x60, 0x0A]).setPc 0xFFE

/-- The reset state with a word at 0x200 and I. -/
def ready (w : Word) (i : Word) : State := (State.reset.placeWord w).setI i

/-- DecodeOfEncodeIsIdentity, EncodeOfDecodeIsIdentity. -/
theorem test_witness_encoding :
    Instr.wellFormed quirky (.jpOff 0x3FF 3) = true ∧ Instr.wellFormed quirky (.drw 15 15 15) = true ∧
    decode quirky 0xB3FF = .known (.jpOff 0x3FF 3) ∧ decode quirky 0xDFFF = .known (.drw 15 15 15) := by
  decide

/-- QuirksTouchOnlyTheJumpOffset: both clauses, at the words on either side of the boundary. -/
theorem test_witness_quirks :
    (0xAFFF : Word).toNat / 4096 ≠ 0xB ∧ (0xC000 : Word).toNat / 4096 ≠ 0xB ∧
    (0xB000 : Word).toNat / 4096 = 0xB ∧ (0xBFFF : Word).toNat / 4096 = 0xB := by decide

/-- FetchIsBigEndian. -/
theorem test_witness_fetch : atTop.pc.toNat + 1 ≤ 0xFFF ∧ atTop.readByte atTop.pc.toNat = 0x60 ∧
    atTop.readByte (atTop.pc.toNat + 1) = 0x0A := by decide

/-- StepRunsTheDecodedInstruction: both clauses, at the top of memory. -/
theorem test_witness_step :
    atTop.Ready ∧ atTop.pc.toNat + 1 ≤ 0xFFF ∧
    0x600A = wordOfBytes (atTop.readByte atTop.pc.toNat) (atTop.readByte (atTop.pc.toNat + 1)) ∧
    decodeBytes atTop.config [atTop.readByte atTop.pc.toNat, atTop.readByte (atTop.pc.toNat + 1)] =
      some (.known (.ldImm 0 0x0A), []) ∧
    Instr.wellFormed atTop.config (.ldImm 0 0x0A) = true ∧ atTop.schedule = [] ∧
    State.schedule { atTop with schedule := [.cycle 7] } = [.cycle 7] :=
  ⟨⟨rfl, rfl⟩, by decide, by decide, by decide, rfl, rfl, rfl⟩

/-- CycleFollowsItsOrder: the four clauses, the last two at 0xFFF and 0xFFE. -/
theorem test_witness_cycle_order :
    faulted.fault ≠ none ∧ (waiting .level).fault = none ∧ (waiting .level).awaiting = true ∧
    (State.reset.setPc 0xFFF).Ready ∧ (State.reset.setPc 0xFFF).pc.toNat + 1 > 0xFFF ∧
    atTop.Ready ∧ atTop.pc.toNat + 1 ≤ 0xFFF :=
  ⟨by decide, rfl, rfl, ⟨rfl, rfl⟩, by decide, ⟨rfl, rfl⟩, by decide⟩

/-- LevelWaitEndsOnATrackedKey, EdgeWaitEndsOnALatchedKey: both clauses of each. -/
theorem test_witness_waits :
    (waiting .level).fault = none ∧ (waiting .level).awaiting = true ∧
    (waiting .level).config.keyWaitMode = .level ∧ (waiting .level).lastPressed = none ∧
    (keyPress 15 (waiting .level)).awaiting = true ∧
    (keyPress 15 (waiting .level)).lastPressed = some 15 ∧
    (waiting .edge).fault = none ∧ (waiting .edge).awaiting = true ∧
    (waiting .edge).config.keyWaitMode = .edge ∧ (waiting .edge).waitLatch = none ∧
    (keyPress 15 (waiting .edge)).awaiting = true ∧
    (keyPress 15 (waiting .edge)).waitLatch = some 15 := by decide

/-- ReturnPopsTheStack, JumpGoesToTheAddress: a core that is ready, with a return address that no fetch
reaches. -/
theorem test_witness_unreachable_target :
    State.Ready { State.reset with stack := [0xFFF] } ∧
    State.stack { State.reset with stack := [0xFFF] } = [] ++ [0xFFF] ∧ (0xFFF : Word).toNat ≥ 0xFFF :=
  ⟨⟨rfl, rfl⟩, rfl, by decide⟩

/-- ReturnPopsTheStack, CallPushesTheReturnAddress, ReturnUndoesCall: one entry and none, room for one
more and none. -/
theorem test_witness_stack :
    (deep 1).stack = [] ++ [0x202] ∧ State.reset.stack = [] ∧
    (deep 15).stack.length ≠ (deep 15).config.stackDepth ∧
    (deep 16).stack.length = (deep 16).config.stackDepth := by decide

/-- KeySkipsConsultTheSource: both sources, with a register above 15. -/
theorem test_witness_key_skips :
    (5 : Key).toNat = ((State.reset.writeV 1 0x15).readV 1).toNat % 16 ∧
    (State.reset.writeV 1 0x15).config.keySkipSource = .lastPressed ∧
    (5 : Key).toNat = (((State.fresh quirky).writeV 1 0x15).readV 1).toNat % 16 ∧
    ((State.fresh quirky).writeV 1 0x15).config.keySkipSource = .flags := by decide

/-- LogicWorksBitByBit, AddRegisterKeepsTheCarry, SubtractionReportsNoBorrow, ShiftsMoveByOne: the inner
conditions, met and not, and both shift sources. -/
theorem test_witness_alu :
    ¬ ((15 : RegIdx) = 15 ∧ State.reset.config.qLogicVfReset = true) ∧
    ((15 : RegIdx) = 15 ∧ (State.fresh quirky).config.qLogicVfReset = true) ∧ (14 : RegIdx) ≠ 15 ∧
    0x80 = (if State.reset.config.qShiftVy then (State.reset.writeV 1 0x80).readV 2
      else (State.reset.writeV 1 0x80).readV 1).toNat ∧
    0x80 = (if (State.fresh quirky).config.qShiftVy then ((State.fresh quirky).writeV 2 0x80).readV 2
      else ((State.fresh quirky).writeV 2 0x80).readV 1).toNat := by decide

/-- RandomByteIsMasked: a byte the host named, and a mask bit that is 0. -/
theorem test_witness_random :
    State.randIn { State.reset with randIn := some 0xA7 } = some 0xA7 ∧ State.reset.randIn = none ∧
    (0x0F : Byte).getLsbD 7 = false := by decide

/-- DecimalDigitsAreStored, BlockStoreWritesItsRange, BlockLoadReadsItsRange at the last range inside
memory, under both settings of Q_MEM_INC_I. -/
theorem test_witness_memory_ranges :
    (ready 0xF033 0xFFD).i.toNat + 2 ≤ 0xFFF ∧ (ready 0xFF55 0xFF0).i.toNat + (15 : RegIdx).toNat ≤ 0xFFF ∧
    (ready 0xF055 0xFFF).i.toNat + (0 : RegIdx).toNat ≤ 0xFFF ∧
    (ready 0xF055 0xFFF).config.qMemIncI = false ∧ (State.fresh quirky).config.qMemIncI = true := by decide

/-- BlockLoadRestoresBlockStore: the store of V0 to V3 at the top, and a load from the old I. -/
theorem test_witness_block_round_trip :
    (ready 0xF355 0xFFC).i.toNat + (3 : RegIdx).toNat ≤ 0xFFF ∧
    ∃ t, exec (.ldMemVx 3) (ready 0xF355 0xFFC) = .next t ∧ (t.setI 0xFFC).mem = t.mem ∧
      (t.setI 0xFFC).config = t.config ∧ (t.setI 0xFFC).i = (ready 0xF355 0xFFC).i :=
  ⟨by decide, _, rfl, rfl, rfl, rfl⟩

/-- DrawTogglesCoveredPixels: the bound at `n = 0` and at the last byte of memory; a covered pixel, at the
right edge, and one that is not, clipped and wrapped. -/
theorem test_witness_draw :
    SpriteInBounds (ready 0xD010 0x1000) 0 ∧ SpriteInBounds (holding 0xFFF [0xC0]) 1 ∧
    SpriteCovers (holding 0xFFF [0xC0]) 63 31 1 63 31 ∧ ¬ SpriteCovers (holding 0xFFF [0xC0]) 63 31 1 0 31 ∧
    SpriteCovers { holding 0xFFF [0xC0] with config := quirky } 63 31 1 0 31 := by
  refine ⟨.inl rfl, .inr (by decide), ⟨0, 0, by decide, by decide, by decide, by decide⟩, ?_,
    ⟨0, 1, by decide, by decide, by decide, by decide⟩⟩
  rintro ⟨r, c, hr, hc, -, h⟩
  have : 63 + c = 0 := h.1
  omega

/-- DrawingTwiceRestores: glyph 0 at (0, 0), drawn again in the state the first draw left. -/
theorem test_witness_draw_twice :
    SpriteInBounds (ready 0xD015 0x050) 5 ∧
    ∃ t, exec (.drw 0 1 5) (ready 0xD015 0x050) = .next t ∧ t.i = (ready 0xD015 0x050).i ∧
      t.mem = (ready 0xD015 0x050).mem ∧ t.config = (ready 0xD015 0x050).config ∧
      t.readV 0 = (ready 0xD015 0x050).readV 0 ∧ t.readV 1 = (ready 0xD015 0x050).readV 1 := by
  refine ⟨.inr (by decide), _, rfl, ?_⟩
  decide

/-- KeyPressEndsTheWait: level mode with the key held already, and edge mode with the key up. -/
theorem test_witness_key_press :
    (keyPress 5 State.reset).fault = none ∧ (keyPress 5 State.reset).config.keyWaitMode = .level ∧
    (∃ t, exec (.ldVxK 3) (keyPress 5 State.reset) = .next t) ∧
    (State.fresh quirky).fault = none ∧ (State.fresh quirky).keyDown 5 = false ∧
    ∃ t, exec (.ldVxK 3) (State.fresh quirky) = .next t :=
  ⟨rfl, rfl, ⟨_, rfl⟩, rfl, by decide, ⟨_, rfl⟩⟩

/-- DelayTimerIsReadWrittenAndTicked, TickDecrementsBothTimers, TicksDecrementExactly: no fault and a
fault. -/
theorem test_witness_ticks : State.reset.fault = none ∧ faulted.fault ≠ none := by decide

/-- The reset state is followed by no Reset. -/
theorem test_witness_no_reset : State.reset.NoReset := fun _ _ _ h => nomatch h

/-- The reset state with the last tick of a sound due. -/
def soundEnding : State := { State.reset with st := 1, schedule := [.tick60] }

/-- SoundFollowsTheSoundTimer, ConfigurationIsImmutable, EveryEventCompletes, StepKeepsTheInvariant: a tick
that stops the sound. -/
theorem test_witness_steps :
    soundEnding.NoReset ∧ soundEnding.Inv ∧ ∃ t, step soundEnding = .next t ∧ t.st = 0 := by
  refine ⟨fun image cfg rest h => ?_,
    ⟨by decide, by decide, (fun _ h => nomatch h), by decide, by decide, (fun _ h => nomatch h), by decide⟩,
    _, rfl, rfl⟩
  have h : Event.tick60 :: [] = Event.reset image cfg :: rest := h
  cases h

/-- ConfigurationIsImmutable, SoundFollowsTheSoundTimer, EveryEventCompletes: a Reset event that is
accepted, and an instruction. -/
theorem test_witness_reset_event :
    (∃ t, step { State.reset with schedule := [.reset [] quirky] } = .next t) ∧
    ∃ t, exec .cls State.reset = .next t := ⟨⟨_, rfl⟩, ⟨_, rfl⟩⟩

/-- FaultsArePrecise: each cause at its boundary, and no cause just inside it. -/
theorem test_witness_fault_causes :
    (ready 0x0000 0).Ready ∧ (ready 0x0000 0).fetch = some 0x0000 ∧
    faultCause (ready 0x0000 0) (decode Config.atReset 0x0000) = some .unknownOpcode ∧
    faultCause (deep 16) (decode Config.atReset 0x2200) = some .stackOverflow ∧
    faultCause (deep 15) (decode Config.atReset 0x2200) = none ∧
    faultCause (deep 0) (decode Config.atReset 0x00EE) = some .stackUnderflow ∧
    faultCause (deep 1) (decode Config.atReset 0x00EE) = none ∧
    faultCause (ready 0xF033 0xFFE) (decode Config.atReset 0xF033) = some .memoryOutOfBounds ∧
    faultCause (ready 0xF033 0xFFD) (decode Config.atReset 0xF033) = none ∧
    faultCause (ready 0xF155 0xFFF) (decode Config.atReset 0xF155) = some .memoryOutOfBounds ∧
    faultCause (ready 0xF055 0xFFF) (decode Config.atReset 0xF055) = none ∧
    faultCause (ready 0xF165 0xFFF) (decode Config.atReset 0xF165) = some .memoryOutOfBounds ∧
    faultCause (ready 0xF065 0xFFF) (decode Config.atReset 0xF065) = none ∧
    faultCause (ready 0xD012 0xFFF) (decode Config.atReset 0xD012) = some .memoryOutOfBounds ∧
    faultCause (ready 0xD011 0xFFF) (decode Config.atReset 0xD011) = none ∧
    faultCause (ready 0xD010 0xFFFF) (decode Config.atReset 0xD010) = none :=
  ⟨⟨rfl, rfl⟩, by decide⟩

/-- FaultsArePrecise: the words of those causes are fetched by a core that is ready. -/
theorem test_witness_fault_fetches :
    (ready 0xF033 0xFFE).Ready ∧ (ready 0xF033 0xFFE).fetch = some 0xF033 ∧
    State.Ready { ready 0x2200 0 with stack := List.replicate 16 0x202 } ∧
    State.fetch { ready 0x2200 0 with stack := List.replicate 16 0x202 } = some 0x2200 ∧
    (ready 0xD010 0xFFFF).Ready ∧ (ready 0xD010 0xFFFF).fetch = some 0xD010 :=
  ⟨⟨rfl, rfl⟩, by decide, ⟨rfl, rfl⟩, by decide, ⟨rfl, rfl⟩, by decide⟩

/-- FaultedCoreStandsStill: the three schedules. -/
theorem test_witness_faulted :
    faulted.fault ≠ none ∧ faulted.schedule = [] ∧
    State.schedule { faulted with schedule := [.cycle 7, .tick60] } = .cycle 7 :: [.tick60] ∧
    State.schedule { faulted with schedule := [.tick60] } = .tick60 :: [] := by decide

/-- UnknownWordFaultsOrIsSkipped: both policies. -/
theorem test_witness_unknown :
    (ready 0x5121 0).Ready ∧ (ready 0x5121 0).fetch = some 0x5121 ∧
    decode (ready 0x5121 0).config 0x5121 = .unknown 0x5121 ∧
    (ready 0x5121 0).config.unknownPolicy = .fault ∧
    ((State.fresh quirky).placeWord 0x5121).Ready ∧
    ((State.fresh quirky).placeWord 0x5121).fetch = some 0x5121 ∧
    decode quirky 0x5121 = .unknown 0x5121 ∧
    ((State.fresh quirky).placeWord 0x5121).config.unknownPolicy = .skip :=
  ⟨⟨rfl, rfl⟩, by decide, by decide, rfl, ⟨rfl, rfl⟩, by decide, by decide, rfl⟩

/-- What `i` answers where it answers a next state that `p` holds of. -/
def answers (i : Instr) (s : State) (p : State → Bool) : Bool :=
  match exec i s with
  | .next t => p t
  | _ => false

/-- WritesFollowTheAccessTable, RegistersChangeOnlyAsDestinations: for each column an instruction that
writes it. -/
theorem test_witness_access_table :
    answers (.ldB 0) ((State.reset.setI 0x300).writeV 0 7) (·.mem != []) = true ∧
    answers (.drw 0 1 5) (State.reset.setI 0x050) (·.display != Display.blank) = true ∧
    answers (.call 0x204) State.reset (·.stack != []) = true ∧
    answers (.jp 0x204) State.reset (·.pc != 0x200) = true ∧
    answers (.ldI 0x300) State.reset (·.i != 0) = true ∧
    answers (.ldDtVx 0) (State.reset.writeV 0 7) (·.dt != 0) = true ∧
    answers (.ldStVx 0) (State.reset.writeV 0 7) (fun t => t.st != 0 && t.sounds != []) = true ∧
    answers (.rnd 0 0xFF) State.reset (·.draws != 0) = true ∧
    answers (.ldVxK 3) State.reset (fun t => t.awaiting && t.waitReg != 0) = true ∧
    answers (.ldVxMem 15) (State.reset.setI 0x050) (fun t => t.readV 15 != 0) = true := by decide

/-- ResetBuildsTheFreshState, LoadBoundaryIsExact: a valid configuration, an image that just fits and one
that is a byte too long. -/
theorem test_witness_images :
    quirky.valid = true ∧ (List.replicate 3584 (0xAB : Byte)).length = 3584 ∧
    (List.replicate 3585 (0xAB : Byte)).length > 3584 :=
  ⟨by decide, List.length_replicate, by rw [List.length_replicate]; decide⟩

/-- InvalidConfigurationIsRefused: each condition broken alone. -/
theorem test_witness_invalid_configurations :
    (∀ cfg ∈ [{ Config.atReset with stackDepth := 0 }, { Config.atReset with fontBase := 0x1B1 },
        { Config.atReset with cpuHz := 0 }],
      ¬ (cfg.stackDepth ≥ 1 ∧ cfg.fontBase + 80 ≤ 0x200 ∧ cfg.cpuHz > 0)) := by decide

/-- A machine whose program holds LD_F V0 right after the font, under the highest font base, V0 being
0xFF. -/
def fontUser : State := ((State.fresh quirky).writeV 0 0xFF).placeWord 0xF029

/-- GlyphsStandWhereIPoints: a program in memory, and the last byte of the last glyph. -/
theorem test_witness_glyphs :
    fontUser.config.valid = true ∧ fontUser.fetch = some 0xF029 ∧ fontUser.mem ≠ [] ∧
    (∀ a, fontUser.config.fontBase ≤ a → a < fontUser.config.fontBase + 80 →
      fontUser.readByte a = fontTable.getD (a - fontUser.config.fontBase) 0) ∧ 4 < 5 := by
  refine ⟨by decide, by decide, by decide, ?_, by decide⟩
  have bytes : ∀ k, k < 80 → fontUser.readByte (0x1B0 + k) = fontTable.getD k 0 := by decide
  intro a (ge : 0x1B0 ≤ a) (lt : a < 0x1B0 + 80)
  have h := bytes (a - 0x1B0) (by omega)
  rw [show 0x1B0 + (a - 0x1B0) = a by omega] at h
  exact h

/-- BlockedCallStillTicks: a cycle that leaves a key awaited, and one that finds it still awaited. -/
theorem test_witness_blocked_call :
    (∃ t, cycle none (tick60^[2] (ready 0xF30A 0)) = .next t ∧ t.fault = none ∧ t.awaiting = true) ∧
    ∃ t, cycle none (tick60^[0] (waiting .edge)) = .next t ∧ t.fault = none ∧ t.awaiting = true :=
  ⟨⟨_, rfl, rfl, rfl⟩, ⟨_, rfl, rfl, rfl⟩⟩

/-- BudgetLosesNoTime: no budget, one second, and remainders kept from an earlier call. -/
theorem test_witness_budget :
    (0 : Rat) ≤ 0 ∧ (0 : Rat) ≤ 1 ∧ (0 : Rat) ≤ 1 / 2 ∧ (1 / 2 : Rat) < 1 ∧ (0 : Rat) ≤ State.reset.cpuAcc ∧
    State.reset.cpuAcc < 1 ∧ 0 ≤ State.reset.tmrAcc ∧ State.reset.tmrAcc < 1 ∧
    0 < State.reset.config.cpuHz := by decide +kernel

end Sys2Proof.Tests
end

section
/-! PROOFS. The delay timer (spec/10_state.md R25): the meanings of LD_VX_DT and LD_DT_VX, what a tick does
to each counter, and the counters of a fresh machine. -/

namespace Sys2Proof.Machine

/-- LD_VX_DT in the dispatch (spec/45_keypad_timers.md R178). -/
theorem exec_ldVxDt (x : RegIdx) (s : State) : exec (.ldVxDt x) s = .next (s.writeV x s.dt) := rfl

/-- LD_DT_VX in the dispatch (spec/45_keypad_timers.md R179). -/
theorem exec_ldDtVx (x : RegIdx) (s : State) : exec (.ldDtVx x) s = .next (s.setDT (s.readV x)) := rfl

theorem State.writeV_sameVBut (s : State) (x : RegIdx) (b : Byte) :
    SameVBut (fun r => r = x) s (s.writeV x b) :=
  fun _ other => s.readV_writeV_ne b other

theorem toNat_dt_tick60 {s : State} (h : s.fault = none) : (tick60 s).dt.toNat = s.dt.toNat - 1 := by
  rw [tick60_eq s h, State.setST_dt, State.setDT_dt, toNat_tickDown]

theorem toNat_st_tick60 {s : State} (h : s.fault = none) : (tick60 s).st.toNat = s.st.toNat - 1 := by
  rw [tick60_eq s h, State.setST_st, toNat_tickDown]

@[simp] theorem State.fresh_dt (cfg : Config) : (State.fresh cfg).dt = 0 := rfl
@[simp] theorem State.fresh_st (cfg : Config) : (State.fresh cfg).st = 0 := rfl

/-- Settles O37: the read, the write, the tick and the reset value, each by its own law. -/
theorem delayTimerIsReadWrittenAndTicked : Obligations.DelayTimerIsReadWrittenAndTicked := by
  refine ⟨fun s x => ?read, fun s x => ?written, fun s noFault => ?ticked, fun cfg => ?zeroAtReset⟩
  case read =>
    exact ⟨_, exec_ldVxDt x s, s.readV_writeV_same x s.dt, s.writeV_sameVBut x s.dt,
      s.writeV_onlyV x s.dt⟩
  case written => exact exec_ldDtVx x s
  case ticked => exact ⟨toNat_dt_tick60 noFault, toNat_st_tick60 noFault⟩
  case zeroAtReset => exact ⟨State.fresh_dt cfg, State.fresh_st cfg⟩

end Sys2Proof.Machine
end

section
/-! PROOFS. The fetch (spec/20_memory.md R54): the two bytes it reads inside memory, and their order. -/

namespace Sys2Proof.Machine

/-- The fetch where both its bytes stand in memory (spec/40_cycle.md R94). -/
theorem State.fetch_of_inMemory {s : State} (h : s.pc.toNat + 1 ≤ 0xFFF) :
    s.fetch = some (wordOfBytes (s.readByte s.pc.toNat) (s.readByte (s.pc.toNat + 1))) := by
  obtain ⟨outside, -⟩ | ⟨-, fetched⟩ := s.fetch_cases
  · omega
  · exact fetched

/-- Settles O7: the fetch is `wordOfBytes` of the bytes at `pc`, whose value has the first byte high. -/
theorem fetchIsBigEndian : Obligations.FetchIsBigEndian := by
  intro s inMemory
  refine ⟨_, State.fetch_of_inMemory inMemory, toNat_wordOfBytes _ _, fun first second => ?_⟩
  rw [first, second]
  rfl

end Sys2Proof.Machine
end

section
/-! PROOFS. Decoding by the row that matches (spec/30_encoding.md R75), and the words of R82. -/

namespace Sys2Proof

/-- The search for the row reads the word alone; the configuration enters only in what the row builds. -/
theorem decode_eq_known_of_find?_eq_some {cfg : Config} {w : Word} {r : OpcodeRow} {i : Instr}
    (found : opcodeRows.find? (fun row => row.matches w) = some r) (built : r.build cfg w = i) :
    decode cfg w = .known i := by
  rw [decode, found, ← built]

/-- Settles O1: each word's row is found by evaluation, and none of the five builds from the configuration. -/
theorem documentWordsDecode : Obligations.DocumentWordsDecode := by
  intro cfg
  refine ⟨?ldImm0, ?ldImm1, ?addReg, ?call, ?ret⟩ <;>
    exact decode_eq_known_of_find?_eq_some rfl rfl

end Sys2Proof
end

section
/-! PROOFS. The key wait in edge mode (spec/40_cycle.md R93): a cycle of a waiting core, what ends the wait,
and when the key events set the latch. -/

namespace Sys2Proof.Machine

section Laws

variable {s : State}

/-- A waiting core runs the key-wait check and fetches nothing (R90). -/
theorem cycle_of_awaiting (rand : Option Byte) (noFault : s.fault = none) (waiting : s.awaiting = true) :
    cycle rand s = .next (keyWaitCheck s) := by
  simp [cycle, noFault, waiting]

theorem keyWaitCheck_of_edge_of_waitLatch_eq_none (edge : s.config.keyWaitMode = .edge)
    (noLatch : s.waitLatch = none) : keyWaitCheck s = s := by
  simp [keyWaitCheck, edge, noLatch]

theorem keyWaitCheck_of_edge_of_waitLatch_eq_some {k : Key} (edge : s.config.keyWaitMode = .edge)
    (latched : s.waitLatch = some k) :
    keyWaitCheck s = { s.resolveWait k with waitLatch := none } := by
  simp [keyWaitCheck, edge, latched]

variable (s) (k : Key)

@[simp] theorem State.readV_resolveWait_waitReg : (s.resolveWait k).readV s.waitReg = k.setWidth 8 :=
  s.readV_writeV_same s.waitReg (k.setWidth 8)

theorem State.resolveWait_sameVBut : SameVBut (fun r => r = s.waitReg) s (s.resolveWait k) :=
  s.writeV_sameVBut s.waitReg (k.setWidth 8)

/-- The awaited register holds the key's number: a byte has room for it. -/
theorem State.toNat_readV_resolveWait_waitReg :
    ((s.resolveWait k).readV s.waitReg).toNat = k.toNat := by
  rw [State.readV_resolveWait_waitReg, BitVec.toNat_setWidth_of_le (by decide)]

theorem keyPress_waitLatch : (keyPress k s).waitLatch = s.latchAfterPress k := rfl

@[simp] theorem keyRelease_waitLatch : (keyRelease k s).waitLatch = s.waitLatch := rfl

variable {s} in
/-- During a wait in edge mode the first press of a key that was up is latched. -/
theorem State.latchAfterPress_of_edge_of_awaiting (edge : s.config.keyWaitMode = .edge)
    (waiting : s.awaiting = true) :
    s.latchAfterPress k =
      if s.waitLatch = none ∧ s.keyDown k = false then some k else s.waitLatch := by
  simp [State.latchAfterPress, edge, waiting]

end Laws

/-- Settles O11: the cycle is the key-wait check, by the latch; the key events by what each does to it. -/
theorem edgeWaitEndsOnALatchedKey : Obligations.EdgeWaitEndsOnALatchedKey := by
  intro rand s noFault waiting edge
  have checks : cycle rand s = .next (keyWaitCheck s) := cycle_of_awaiting rand noFault waiting
  refine ⟨fun noLatch => ?blocked, fun k latched => ?resolved, fun k => ?pressed, fun k => ?released⟩
  case blocked => rw [checks, keyWaitCheck_of_edge_of_waitLatch_eq_none edge noLatch]
  case resolved =>
    rw [checks, keyWaitCheck_of_edge_of_waitLatch_eq_some edge latched]
    exact ⟨_, rfl, s.toNat_readV_resolveWait_waitReg k, s.resolveWait_sameVBut k, rfl, rfl, rfl⟩
  case pressed => rw [keyPress_waitLatch, State.latchAfterPress_of_edge_of_awaiting k edge waiting]
  case released => exact keyRelease_waitLatch s k

end Sys2Proof.Machine
end

section
/-! PROOFS. The load of a byte into a register (spec/42_alu.md R130). -/

namespace Sys2Proof.Machine

/-- LD_IMM in the dispatch (spec/42_alu.md R130). -/
theorem exec_ldImm (x : RegIdx) (nn : Byte) (s : State) : exec (.ldImm x nn) s = .next (s.writeV x nn) := rfl

/-- Settles O19: LD_IMM is one register write, and the write's own laws give the byte and the two frames. -/
theorem loadImmediateSetsTheRegister : Obligations.LoadImmediateSetsTheRegister := by
  intro s x nn
  exact ⟨s.writeV x nn, exec_ldImm x nn s, s.readV_writeV_same x nn, s.writeV_sameVBut x nn,
    s.writeV_onlyV x nn⟩

end Sys2Proof.Machine
end

section
/-! PROOFS. The clearing of the screen (spec/44_display.md R165): the meaning of CLS and what replacing the
display leaves unchanged. -/

namespace Sys2Proof.Machine

/-- CLS in the dispatch (spec/44_display.md R165). -/
theorem exec_cls (s : State) : exec .cls s = .next (s.setDisplay Display.blank) := rfl

theorem State.setDisplay_onlyDisplay (s : State) (d : Display) :
    s.setDisplay d = { s with display := (s.setDisplay d).display } := rfl

/-- Settles O32: CLS replaces the display by the blank one, in which no pixel is set; the registers, VF
among them, and every other field are those of the state before. -/
theorem clearScreenUnsetsEveryPixel : Obligations.ClearScreenUnsetsEveryPixel := by
  intro s
  refine ⟨s.setDisplay Display.blank, exec_cls s, fun x y => ?unset, ?vfKept,
    s.setDisplay_onlyDisplay Display.blank⟩
  case unset => rw [State.setDisplay_display, Display.px_blank]
  case vfKept => rw [State.readV_setDisplay]

end Sys2Proof.Machine
end

section
/-! PROOFS. The read-only queries (spec/60_exceptions.md R220, R221): the order of the pixels, of the
registers and of the bytes in what they return. -/

namespace Sys2Proof.Machine

/-- Row-major order is Mathlib's pairing of a row and a column into one place. -/
theorem mk_rowMajor_eq_finProdFinEquiv (y : Fin 32) (x : Fin 64) (inside : y.val * 64 + x.val < 32 * 64) :
    (⟨y.val * 64 + x.val, inside⟩ : Fin (32 * 64)) = finProdFinEquiv (y, x) := by
  apply Fin.ext
  change y.val * 64 + x.val = x.val + 64 * y.val
  omega

section Laws

variable (s : State)

/-- The rows of DisplayRead one after another are one list over all places. -/
theorem displayRead_pixels :
    (displayRead s).pixels = List.ofFn fun k : Fin (32 * 64) =>
      s.display.px (finProdFinEquiv.symm k).2 (finProdFinEquiv.symm k).1 := by
  rw [List.ofFn_mul]
  simp only [mk_rowMajor_eq_finProdFinEquiv, Equiv.symm_apply_apply, List.ofFn_eq_map]
  rw [displayRead, List.flatMap_def]

@[simp] theorem length_displayRead_pixels : (displayRead s).pixels.length = 2048 := by
  rw [displayRead_pixels, List.length_ofFn]

theorem getElem?_displayRead_pixels (x : Fin 64) (y : Fin 32) :
    (displayRead s).pixels[y.val * 64 + x.val]? = some (s.display.px x y) := by
  have inside : y.val * 64 + x.val < 32 * 64 := by omega
  rw [displayRead_pixels, List.getElem?_ofFn, dif_pos inside, mk_rowMajor_eq_finProdFinEquiv,
    Equiv.symm_apply_apply]

/-- The registers of the dump stand at their own numbers. -/
theorem getElem?_debugDump_v (r : RegIdx) : (debugDump s).v[r.toNat]? = some (s.readV r) := by
  have inside : r.toNat < (s.readVs 16).length := by
    rw [State.length_readVs]
    exact r.isLt
  rw [debugDump, List.getElem?_eq_getElem inside, State.getElem_readVs, BitVec.ofNat_toNat,
    BitVec.setWidth_eq]

@[simp] theorem length_debugDump_mem : (debugDump s).mem.length = 4096 := by
  rw [debugDump, List.length_map, List.length_range, memSize]

/-- The bytes of the dump stand at their own addresses. -/
theorem getElem?_debugDump_mem {a : Nat} (inside : a < memSize) :
    (debugDump s).mem[a]? = some (s.readByte a) := by
  rw [debugDump, List.getElem?_map, List.getElem?_range inside, Option.map_some]

end Laws

/-- Settles O58: the pixels are one row-major list, so the place of (x, y) holds pixel (x, y); the width and
the height are constants. -/
theorem displayReadIsRowMajor : Obligations.DisplayReadIsRowMajor := by
  intro s
  exact ⟨length_displayRead_pixels s, rfl, rfl, getElem?_displayRead_pixels s⟩

/-- Settles O59: the registers and the bytes of memory by the order they are dumped in; every other item is
the field itself. -/
theorem debugDumpShowsTheState : Obligations.DebugDumpShowsTheState := by
  intro s
  exact ⟨s.length_readVs 16, getElem?_debugDump_v s, rfl, rfl, rfl, rfl, rfl, length_debugDump_mem s,
    fun _ inside => getElem?_debugDump_mem s inside, rfl⟩

end Sys2Proof.Machine
end

section
/-! PROOFS. The load of an image (spec/70_reset_and_hazards.md R240, R241): both sides of the boundary under
a valid configuration, and where the loader puts the bytes. -/

namespace Sys2Proof.Machine

section Laws

variable {image : List Byte} {cfg : Config}

theorem resetMachine_of_length_le (s : State) (valid : cfg.valid = true) (fits : image.length ≤ 3584) :
    resetMachine image cfg s = .next { State.loaded image cfg with
      schedule := s.schedule, draws := s.draws, sounds := s.sounds } := by
  have room : ¬ image.length > progMax := Nat.not_lt.mpr fits
  rw [resetMachine, if_neg (by simp [valid]), if_neg room]

theorem resetMachine_of_length_gt (s : State) (valid : cfg.valid = true) (tooLong : image.length > 3584) :
    resetMachine image cfg s = .fault .loadError := by
  have noRoom : image.length > progMax := tooLong
  rw [resetMachine, if_neg (by simp [valid]), if_pos noRoom]

/-- Byte `k` of the image stands at 0x200 + `k` of the loaded machine. -/
theorem State.readByte_loaded_image {k : Nat} (h : k < image.length) :
    (State.loaded image cfg).readByte (0x200 + k) = image[k] := by
  have inside : entry ≤ 0x200 + k ∧ 0x200 + k < entry + image.length := by
    rw [entry]
    omega
  have offset : 0x200 + k - entry = k := Nat.add_sub_cancel_left ..
  rw [State.loaded, State.readByte_storeBytes, dif_pos inside]
  simp only [offset]

/-- The host's record that a Reset keeps is no part of what memory reads as. -/
theorem State.readByte_withHostRecord (s : State) (schedule : List Event) (draws : Nat)
    (sounds : List SoundNote) (a : Nat) :
    ({ s with schedule := schedule, draws := draws, sounds := sounds } : State).readByte a =
      s.readByte a := State.readByte_congr rfl rfl a

end Laws

/-- Settles O53: on either side of 3584 bytes by what Reset answers there; the last byte of a 3584-byte image
is byte 3583, and 0x200 + 3583 is 0xFFF. -/
theorem loadBoundaryIsExact : Obligations.LoadBoundaryIsExact := by
  intro image cfg s valid
  refine ⟨fun fits => ?loads, resetMachine_of_length_gt s valid⟩
  case loads =>
    refine ⟨_, resetMachine_of_length_le s valid fits, fun k inside => ?byte, fun full => ?lastByte⟩
    case byte => rw [State.readByte_withHostRecord, State.readByte_loaded_image inside]
    case lastByte =>
      have inside : 3583 < image.length := by omega
      rw [State.readByte_withHostRecord]
      exact State.readByte_loaded_image inside

end Sys2Proof.Machine
end

section
/-! PROOFS. The fields of a word (spec/30_encoding.md R71, R72): what the fields of an encoded word are, that
a word is put together again from its fields, and which fields a row's mask compares. -/

namespace Sys2Proof

/-! ### The fields of the words of each format -/

@[simp] theorem fieldNNN_wordA (op : BitVec 4) (nnn : Addr12) : fieldNNN (wordA op nnn) = nnn :=
  BitVec.extractLsb'_append_eq_right

@[simp] theorem fieldX_wordXI (op : BitVec 4) (x : RegIdx) (nn : Byte) : fieldX (wordXI op x nn) = x := by
  rw [fieldX, wordXI, BitVec.extractLsb'_append_eq_of_add_le (by decide),
    BitVec.extractLsb'_append_eq_left]

@[simp] theorem fieldNN_wordXI (op : BitVec 4) (x : RegIdx) (nn : Byte) :
    fieldNN (wordXI op x nn) = nn := by
  rw [fieldNN, wordXI, BitVec.extractLsb'_append_eq_of_add_le (by decide),
    BitVec.extractLsb'_append_eq_right]

@[simp] theorem fieldX_wordXYN (op : BitVec 4) (x y : RegIdx) (n : Nibble) :
    fieldX (wordXYN op x y n) = x :=
  fieldX_wordXI op x (y ++ n)

@[simp] theorem fieldY_wordXYN (op : BitVec 4) (x y : RegIdx) (n : Nibble) :
    fieldY (wordXYN op x y n) = y := by
  rw [fieldY, wordXYN, BitVec.extractLsb'_append_eq_of_add_le (by decide),
    BitVec.extractLsb'_append_eq_of_add_le (by decide), BitVec.extractLsb'_append_eq_left]

@[simp] theorem fieldN_wordXYN (op : BitVec 4) (x y : RegIdx) (n : Nibble) :
    fieldN (wordXYN op x y n) = n := by
  rw [fieldN, wordXYN, BitVec.extractLsb'_append_eq_of_add_le (by decide),
    BitVec.extractLsb'_append_eq_of_add_le (by decide), BitVec.extractLsb'_append_eq_right]

/-- A word is its high byte in front of its low byte (R54). -/
@[simp] theorem wordOfBytes_highByte_lowByte (w : Word) : wordOfBytes (highByte w) (lowByte w) = w := by
  rw [wordOfBytes, highByte, lowByte, BitVec.extractLsb'_append_extractLsb'_eq_extractLsb' (by decide)]
  exact BitVec.extractLsb'_eq_self

end Sys2Proof
end

section
/-! PROOFS. The opcode map (spec/30_encoding.md R74): its rows are disjoint, so the row a word matches is the
row the decoder finds, and decoding undoes encoding. -/

namespace Sys2Proof

/-- Two rows with this property have no word in common: on the bits that both compare, their values differ. -/
def OpcodeRow.Clash (r r' : OpcodeRow) : Prop := r.value &&& r'.mask ≠ r'.value &&& r.mask

theorem OpcodeRow.matches_iff (r : OpcodeRow) (w : Word) : r.matches w = true ↔ w &&& r.mask = r.value :=
  beq_iff_eq

/-- A word that matches both rows has both values on the bits that both compare. -/
theorem OpcodeRow.Clash.not_matches_both {r r' : OpcodeRow} (clash : r.Clash r') (w : Word) :
    ¬ (r.matches w = true ∧ r'.matches w = true) := by
  rw [OpcodeRow.matches_iff, OpcodeRow.matches_iff]
  rintro ⟨value, value'⟩
  refine clash ?_
  rw [← value, ← value', BitVec.and_assoc, BitVec.and_assoc, BitVec.and_comm r.mask]

/-- The values and masks of any two rows of the map differ where both compare. -/
theorem opcodeRows_pairwise_clash : opcodeRows.Pairwise OpcodeRow.Clash := by
  unfold OpcodeRow.Clash
  decide

/-- Settles O4: any two rows clash. -/
theorem opcodeRowsAreDisjoint : Obligations.OpcodeRowsAreDisjoint :=
  opcodeRows_pairwise_clash.imp OpcodeRow.Clash.not_matches_both

/-- The decoder finds the row that the word matches, since no other row matches it. -/
theorem find?_opcodeRows_of_matches {r : OpcodeRow} {w : Word} (row : r ∈ opcodeRows)
    (hit : r.matches w = true) : opcodeRows.find? (fun row => row.matches w) = some r := by
  obtain ⟨before, after, split⟩ := List.append_of_mem row
  have disjoint := opcodeRowsAreDisjoint
  rw [Obligations.OpcodeRowsAreDisjoint, split, List.pairwise_append] at disjoint
  obtain ⟨-, -, apart⟩ := disjoint
  refine List.find?_eq_some_iff_append.2 ⟨hit, before, after, split, fun other earlier => ?_⟩
  have := apart other earlier r List.mem_cons_self w
  simpa [hit] using this

theorem Instr.wellFormed_jpOff_iff {cfg : Config} {nnn : Addr12} {r : RegIdx} :
    (Instr.jpOff nnn r).wellFormed cfg = true ↔ r = offsetRegister cfg nnn := beq_iff_eq

/-- Row `k` of the map decodes every word with its fixed bits. -/
theorem decode_eq_known_of_row (k : Nat) {r : OpcodeRow} {cfg : Config} {w : Word} {i : Instr}
    (row : opcodeRows[k]? = some r) (fixed : w &&& r.mask = r.value) (built : r.build cfg w = i) :
    decode cfg w = .known i :=
  decode_eq_known_of_find?_eq_some
    (find?_opcodeRows_of_matches (List.mem_of_getElem? row) ((r.matches_iff w).2 fixed)) built

open Laws in
/-- Decoding undoes encoding: an instruction's word has the fixed bits of its row, and the row builds the
instruction again from the fields. -/
theorem decode_encode {cfg : Config} {i : Instr} (wf : i.wellFormed cfg = true) :
    decode cfg (encode i) = .known i := by
  cases i with
  | cls => exact decode_eq_known_of_row 0 rfl FixedBits.cls rfl
  | ret => exact decode_eq_known_of_row 1 rfl FixedBits.ret rfl
  | jp nnn => exact decode_eq_known_of_row 2 rfl (FixedBits.jp nnn) (by simp [encode])
  | call nnn => exact decode_eq_known_of_row 3 rfl (FixedBits.call nnn) (by simp [encode])
  | ldI nnn => exact decode_eq_known_of_row 4 rfl (FixedBits.ldI nnn) (by simp [encode])
  | jpOff nnn r =>
    exact decode_eq_known_of_row 5 rfl (FixedBits.jpOff nnn r)
      (by simp [encode, Instr.wellFormed_jpOff_iff.1 wf])
  | seImm x nn => exact decode_eq_known_of_row 6 rfl (FixedBits.seImm x nn) (by simp [encode])
  | sneImm x nn => exact decode_eq_known_of_row 7 rfl (FixedBits.sneImm x nn) (by simp [encode])
  | ldImm x nn => exact decode_eq_known_of_row 8 rfl (FixedBits.ldImm x nn) (by simp [encode])
  | addImm x nn => exact decode_eq_known_of_row 9 rfl (FixedBits.addImm x nn) (by simp [encode])
  | rnd x nn => exact decode_eq_known_of_row 10 rfl (FixedBits.rnd x nn) (by simp [encode])
  | seReg x y => exact decode_eq_known_of_row 11 rfl (FixedBits.seReg x y) (by simp [encode])
  | sneReg x y => exact decode_eq_known_of_row 12 rfl (FixedBits.sneReg x y) (by simp [encode])
  | ldReg x y => exact decode_eq_known_of_row 13 rfl (FixedBits.ldReg x y) (by simp [encode])
  | orReg x y => exact decode_eq_known_of_row 14 rfl (FixedBits.orReg x y) (by simp [encode])
  | andReg x y => exact decode_eq_known_of_row 15 rfl (FixedBits.andReg x y) (by simp [encode])
  | xorReg x y => exact decode_eq_known_of_row 16 rfl (FixedBits.xorReg x y) (by simp [encode])
  | addReg x y => exact decode_eq_known_of_row 17 rfl (FixedBits.addReg x y) (by simp [encode])
  | sub x y => exact decode_eq_known_of_row 18 rfl (FixedBits.sub x y) (by simp [encode])
  | shr x y => exact decode_eq_known_of_row 19 rfl (FixedBits.shr x y) (by simp [encode])
  | subn x y => exact decode_eq_known_of_row 20 rfl (FixedBits.subn x y) (by simp [encode])
  | shl x y => exact decode_eq_known_of_row 21 rfl (FixedBits.shl x y) (by simp [encode])
  | drw x y n => exact decode_eq_known_of_row 22 rfl (FixedBits.drw x y n) (by simp [encode])
  | skp x => exact decode_eq_known_of_row 23 rfl (FixedBits.skp x) (by simp [encode])
  | sknp x => exact decode_eq_known_of_row 24 rfl (FixedBits.sknp x) (by simp [encode])
  | ldVxDt x => exact decode_eq_known_of_row 25 rfl (FixedBits.ldVxDt x) (by simp [encode])
  | ldVxK x => exact decode_eq_known_of_row 26 rfl (FixedBits.ldVxK x) (by simp [encode])
  | ldDtVx x => exact decode_eq_known_of_row 27 rfl (FixedBits.ldDtVx x) (by simp [encode])
  | ldStVx x => exact decode_eq_known_of_row 28 rfl (FixedBits.ldStVx x) (by simp [encode])
  | addI x => exact decode_eq_known_of_row 29 rfl (FixedBits.addI x) (by simp [encode])
  | ldF x => exact decode_eq_known_of_row 30 rfl (FixedBits.ldF x) (by simp [encode])
  | ldB x => exact decode_eq_known_of_row 31 rfl (FixedBits.ldB x) (by simp [encode])
  | ldMemVx x => exact decode_eq_known_of_row 32 rfl (FixedBits.ldMemVx x) (by simp [encode])
  | ldVxMem x => exact decode_eq_known_of_row 33 rfl (FixedBits.ldVxMem x) (by simp [encode])

/-- Settles O2: through words by `decode_encode`; the two bytes make up the word again. -/
theorem decodeOfEncodeIsIdentity : Obligations.DecodeOfEncodeIsIdentity := by
  intro cfg i rest wf
  refine ⟨decode_encode wf, ?bytes⟩
  case bytes =>
    change some (decode cfg (wordOfBytes _ _), rest) = _
    rw [wordOfBytes_highByte_lowByte, decode_encode wf]

end Sys2Proof
end

section
/-! PROOFS. A word and its fields (spec/30_encoding.md R71): it is put together again from them, and the
masks of the opcode map compare the major opcode, the low byte or the low nibble. -/

namespace Sys2Proof

/-- The major opcode, bits 15 to 12 (spec/30_encoding.md R71). -/
def fieldOp (w : Word) : BitVec 4 := w.extractLsb' 12 4

@[simp] theorem fieldOp_wordA (op : BitVec 4) (nnn : Addr12) : fieldOp (wordA op nnn) = op :=
  BitVec.extractLsb'_append_eq_left

@[simp] theorem fieldOp_wordXI (op : BitVec 4) (x : RegIdx) (nn : Byte) : fieldOp (wordXI op x nn) = op :=
  BitVec.extractLsb'_append_eq_left

@[simp] theorem fieldOp_wordXYN (op : BitVec 4) (x y : RegIdx) (n : Nibble) :
    fieldOp (wordXYN op x y n) = op :=
  BitVec.extractLsb'_append_eq_left

section Laws

variable (w : Word)

theorem toNat_fieldOp : (fieldOp w).toNat = w.toNat / 4096 := by
  have := w.isLt
  rw [fieldOp, BitVec.extractLsb'_toNat, Nat.shiftRight_eq_div_pow]
  omega

theorem toNat_fieldNNN : (fieldNNN w).toNat = w.toNat % 4096 := by
  rw [fieldNNN, BitVec.extractLsb'_toNat, Nat.shiftRight_zero]

theorem toNat_fieldNN : (fieldNN w).toNat = w.toNat % 256 := by
  rw [fieldNN, BitVec.extractLsb'_toNat, Nat.shiftRight_zero]

theorem toNat_fieldN : (fieldN w).toNat = w.toNat % 16 := by
  rw [fieldN, BitVec.extractLsb'_toNat, Nat.shiftRight_zero]

/-! ### A word is put together again from its fields -/

theorem wordA_fields : wordA (fieldOp w) (fieldNNN w) = w := by
  rw [wordA, fieldOp, fieldNNN, BitVec.extractLsb'_append_extractLsb'_eq_extractLsb' (by decide)]
  exact BitVec.extractLsb'_eq_self

theorem fieldX_append_fieldNN : fieldX w ++ fieldNN w = fieldNNN w :=
  BitVec.extractLsb'_append_extractLsb'_eq_extractLsb' (by decide)

theorem fieldY_append_fieldN : fieldY w ++ fieldN w = fieldNN w :=
  BitVec.extractLsb'_append_extractLsb'_eq_extractLsb' (by decide)

theorem wordXI_fields : wordXI (fieldOp w) (fieldX w) (fieldNN w) = w := by
  rw [wordXI, fieldX_append_fieldNN]
  exact wordA_fields w

theorem wordXYN_fields : wordXYN (fieldOp w) (fieldX w) (fieldY w) (fieldN w) = w := by
  rw [wordXYN, fieldY_append_fieldN]
  exact wordXI_fields w

/-! ### What is left of a word under the masks of the opcode map -/

theorem and_F000_eq : w &&& 0xF000 = wordA (fieldOp w) 0 := by
  have fixed := Laws.FixedBits.format_address (fieldOp w) (fieldNNN w)
  rwa [wordA_fields] at fixed

theorem and_F0FF_eq : w &&& 0xF0FF = wordXI (fieldOp w) 0 (fieldNN w) := by
  have fixed := Laws.FixedBits.format_register (fieldOp w) (fieldX w) (fieldNN w)
  rwa [wordXI_fields] at fixed

theorem and_F00F_eq : w &&& 0xF00F = wordXYN (fieldOp w) 0 0 (fieldN w) := by
  have fixed := Laws.FixedBits.format_two_registers (fieldOp w) (fieldX w) (fieldY w) (fieldN w)
  rwa [wordXYN_fields] at fixed

variable {w} {v : Word}

/-- Formats A, XI and XYN compare the major opcode. -/
theorem and_F000_eq_iff (fixed : v &&& 0xF000 = v) : w &&& 0xF000 = v ↔ fieldOp w = fieldOp v := by
  rw [← fixed, and_F000_eq w, and_F000_eq v]
  exact ⟨fun same => by simpa using congrArg fieldOp same, fun same => by simp [same]⟩

/-- Format X compares the major opcode and the low byte. -/
theorem and_F0FF_eq_iff (fixed : v &&& 0xF0FF = v) :
    w &&& 0xF0FF = v ↔ fieldOp w = fieldOp v ∧ fieldNN w = fieldNN v := by
  rw [← fixed, and_F0FF_eq w, and_F0FF_eq v]
  exact ⟨fun same => ⟨by simpa using congrArg fieldOp same, by simpa using congrArg fieldNN same⟩,
    fun ⟨sameOp, sameNN⟩ => by simp [sameOp, sameNN]⟩

/-- Format XY compares the major opcode and the low nibble. -/
theorem and_F00F_eq_iff (fixed : v &&& 0xF00F = v) :
    w &&& 0xF00F = v ↔ fieldOp w = fieldOp v ∧ fieldN w = fieldN v := by
  rw [← fixed, and_F00F_eq w, and_F00F_eq v]
  exact ⟨fun same => ⟨by simpa using congrArg fieldOp same, by simpa using congrArg fieldN same⟩,
    fun ⟨sameOp, sameN⟩ => by simp [sameOp, sameN]⟩

end Laws

end Sys2Proof
end

section
/-! PROOFS. Encoding undoes decoding (spec/30_encoding.md R74, R75): what a row builds from a word that
matches it is well-formed and has that word as its encoding. -/

namespace Sys2Proof

/-- What the row builds from a word that matches it is well-formed, and its encoding is the word. -/
def OpcodeRow.Inverts (r : OpcodeRow) : Prop :=
  ∀ (cfg : Config) (w : Word), w &&& r.mask = r.value →
    (r.build cfg w).wellFormed cfg = true ∧ encode (r.build cfg w) = w

section Formats

variable {w : Word} {op : BitVec 4}

theorem wordA_of_and_F000 (fixed : w &&& 0xF000 = wordA op 0) : wordA op (fieldNNN w) = w := by
  have sameOp := (and_F000_eq_iff (Laws.FixedBits.format_address op 0)).1 fixed
  rw [fieldOp_wordA] at sameOp
  rw [← sameOp, wordA_fields]

theorem wordXI_of_and_F000 (fixed : w &&& 0xF000 = wordA op 0) : wordXI op (fieldX w) (fieldNN w) = w := by
  rw [wordXI, fieldX_append_fieldNN]
  exact wordA_of_and_F000 fixed

theorem wordXYN_of_and_F000 (fixed : w &&& 0xF000 = wordA op 0) :
    wordXYN op (fieldX w) (fieldY w) (fieldN w) = w := by
  rw [wordXYN, fieldY_append_fieldN]
  exact wordXI_of_and_F000 fixed

theorem wordXI_of_and_F0FF {nn : Byte} (fixed : w &&& 0xF0FF = wordXI op 0 nn) :
    wordXI op (fieldX w) nn = w := by
  obtain ⟨sameOp, sameNN⟩ := (and_F0FF_eq_iff (Laws.FixedBits.format_register op 0 nn)).1 fixed
  rw [fieldOp_wordXI] at sameOp
  rw [fieldNN_wordXI] at sameNN
  rw [← sameOp, ← sameNN, wordXI_fields]

theorem wordXYN_of_and_F00F {n : Nibble} (fixed : w &&& 0xF00F = wordXYN op 0 0 n) :
    wordXYN op (fieldX w) (fieldY w) n = w := by
  obtain ⟨sameOp, sameN⟩ := (and_F00F_eq_iff (Laws.FixedBits.format_two_registers op 0 0 n)).1 fixed
  rw [fieldOp_wordXYN] at sameOp
  rw [fieldN_wordXYN] at sameN
  rw [← sameOp, ← sameN, wordXYN_fields]

end Formats

/-- Formats Z and A: the word itself, or the major opcode and the address. -/
theorem rowsAddress_invert : ∀ r ∈ rowsAddress, r.Inverts := by
  simp only [rowsAddress, List.forall_mem_cons, List.not_mem_nil, false_implies, implies_true, and_true]
  refine ⟨?cls, ?ret, ?jp, ?call, ?ldI, ?jpOff⟩
  case cls => exact fun _ _ fixed => ⟨rfl, fixed.symm.trans BitVec.and_allOnes⟩
  case ret => exact fun _ _ fixed => ⟨rfl, fixed.symm.trans BitVec.and_allOnes⟩
  case jpOff => exact fun _ _ fixed => ⟨beq_self_eq_true _, wordA_of_and_F000 fixed⟩
  all_goals exact fun _ _ fixed => ⟨rfl, wordA_of_and_F000 fixed⟩

/-- Format XI: the major opcode, a register and a byte. -/
theorem rowsRegisterByte_invert : ∀ r ∈ rowsRegisterByte, r.Inverts := by
  simp only [rowsRegisterByte, List.forall_mem_cons, List.not_mem_nil, false_implies, implies_true, and_true]
  refine ⟨?_, ?_, ?_, ?_, ?_⟩ <;> exact fun _ _ fixed => ⟨rfl, wordXI_of_and_F000 fixed⟩

/-- Format XY: the major opcode, two registers and the low nibble; DRW's nibble is an operand. -/
theorem rowsTwoRegisters_invert : ∀ r ∈ rowsTwoRegisters, r.Inverts := by
  simp only [rowsTwoRegisters, List.forall_mem_cons, List.not_mem_nil, false_implies, implies_true, and_true]
  refine ⟨?_, ?_, ?_, ?_, ?_, ?_, ?_, ?_, ?_, ?_, ?_, ?drw⟩
  case drw => exact fun _ _ fixed => ⟨rfl, wordXYN_of_and_F000 fixed⟩
  all_goals exact fun _ _ fixed => ⟨rfl, wordXYN_of_and_F00F fixed⟩

/-- Format X: the major opcode, a register and the low byte. -/
theorem rowsOneRegister_invert : ∀ r ∈ rowsOneRegister, r.Inverts := by
  simp only [rowsOneRegister, List.forall_mem_cons, List.not_mem_nil, false_implies, implies_true, and_true]
  refine ⟨?_, ?_, ?_, ?_, ?_, ?_, ?_, ?_, ?_, ?_, ?_⟩ <;>
    exact fun _ _ fixed => ⟨rfl, wordXI_of_and_F0FF fixed⟩

theorem opcodeRows_invert : ∀ r ∈ opcodeRows, r.Inverts := by
  simp only [opcodeRows, List.forall_mem_append]
  exact ⟨⟨⟨rowsAddress_invert, rowsRegisterByte_invert⟩, rowsTwoRegisters_invert⟩, rowsOneRegister_invert⟩

theorem decode_eq_known_iff {cfg : Config} {w : Word} {i : Instr} :
    decode cfg w = .known i ↔
      ∃ r, opcodeRows.find? (fun row => row.matches w) = some r ∧ r.build cfg w = i := by
  unfold decode
  split
  · next r found => simp [found]
  · next none => simp [none]

/-- Settles O3: the word matches the row that the decoder found, and every row inverts. -/
theorem encodeOfDecodeIsIdentity : Obligations.EncodeOfDecodeIsIdentity := by
  intro cfg w i known
  obtain ⟨r, found, rfl⟩ := decode_eq_known_iff.1 known
  have hit : w &&& r.mask = r.value := by
    simpa [OpcodeRow.matches_iff] using List.find?_some found
  exact opcodeRows_invert r (List.mem_of_find?_eq_some found) cfg w hit

end Sys2Proof
end

section
/-! PROOFS. The UNKNOWN words (spec/30_encoding.md R77): no row matches them, said of the numbers of the
fields; and what of the configuration the decoder reads (R75). -/

namespace Sys2Proof

theorem decode_eq_unknown_iff {cfg : Config} {w : Word} :
    decode cfg w = .unknown w ↔ ∀ r ∈ opcodeRows, ¬ r.matches w = true := by
  rw [← List.find?_eq_none]
  unfold decode
  split
  · next r found => simp [found]
  · next none => simp [none]

section Rows

variable {w v : Word}

/-! The comparisons of the masks as comparisons of numbers -/

theorem and_FFFF_eq_iff_toNat : w &&& 0xFFFF = v ↔ w.toNat = v.toNat := by
  rw [show w &&& 0xFFFF = w from BitVec.and_allOnes, BitVec.toNat_inj]

theorem and_F000_eq_iff_toNat (fixed : v &&& 0xF000 = v) :
    w &&& 0xF000 = v ↔ w.toNat / 4096 = v.toNat / 4096 := by
  rw [and_F000_eq_iff fixed, ← BitVec.toNat_inj, toNat_fieldOp, toNat_fieldOp]

theorem and_F0FF_eq_iff_toNat (fixed : v &&& 0xF0FF = v) :
    w &&& 0xF0FF = v ↔ w.toNat / 4096 = v.toNat / 4096 ∧ w.toNat % 256 = v.toNat % 256 := by
  rw [and_F0FF_eq_iff fixed, ← BitVec.toNat_inj, ← BitVec.toNat_inj, toNat_fieldOp, toNat_fieldOp,
    toNat_fieldNN, toNat_fieldNN]

theorem and_F00F_eq_iff_toNat (fixed : v &&& 0xF00F = v) :
    w &&& 0xF00F = v ↔ w.toNat / 4096 = v.toNat / 4096 ∧ w.toNat % 16 = v.toNat % 16 := by
  rw [and_F00F_eq_iff fixed, ← BitVec.toNat_inj, ← BitVec.toNat_inj, toNat_fieldOp, toNat_fieldOp,
    toNat_fieldN, toNat_fieldN]

variable (w)

theorem rowsAddress_not_matches_iff : (∀ r ∈ rowsAddress, ¬ r.matches w = true) ↔
    (w.toNat / 4096 = 0 → w.toNat ≠ 0x00E0 ∧ w.toNat ≠ 0x00EE) ∧ w.toNat / 4096 ∉ [0x1, 0x2, 0xA, 0xB] := by
  simp (disch := decide) only [rowsAddress, List.forall_mem_cons, OpcodeRow.matches_iff,
    and_FFFF_eq_iff_toNat, and_F000_eq_iff_toNat]
  simp
  omega

theorem rowsRegisterByte_not_matches_iff : (∀ r ∈ rowsRegisterByte, ¬ r.matches w = true) ↔
    w.toNat / 4096 ∉ [0x3, 0x4, 0x6, 0x7, 0xC] := by
  simp (disch := decide) only [rowsRegisterByte, List.forall_mem_cons, OpcodeRow.matches_iff,
    and_F000_eq_iff_toNat]
  simp

theorem rowsTwoRegisters_not_matches_iff : (∀ r ∈ rowsTwoRegisters, ¬ r.matches w = true) ↔
    ¬ (w.toNat / 4096 ∈ [0x5, 0x9] ∧ w.toNat % 16 = 0) ∧
    ¬ (w.toNat / 4096 = 0x8 ∧ w.toNat % 16 ∈ [0x0, 0x1, 0x2, 0x3, 0x4, 0x5, 0x6, 0x7, 0xE]) ∧
    w.toNat / 4096 ≠ 0xD := by
  simp (disch := decide) only [rowsTwoRegisters, List.forall_mem_cons, OpcodeRow.matches_iff,
    and_F000_eq_iff_toNat, and_F00F_eq_iff_toNat]
  simp [or_and_right, and_or_left, and_assoc, -not_and]

theorem rowsOneRegister_not_matches_iff : (∀ r ∈ rowsOneRegister, ¬ r.matches w = true) ↔
    ¬ (w.toNat / 4096 = 0xE ∧ w.toNat % 256 ∈ [0x9E, 0xA1]) ∧
    ¬ (w.toNat / 4096 = 0xF ∧
      w.toNat % 256 ∈ [0x07, 0x0A, 0x15, 0x18, 0x1E, 0x29, 0x33, 0x55, 0x65]) := by
  simp (disch := decide) only [rowsOneRegister, List.forall_mem_cons, OpcodeRow.matches_iff,
    and_F0FF_eq_iff_toNat]
  simp [and_or_left, and_assoc, -not_and]

end Rows

/-- Settles O5: UNKNOWN is what no row of the four formats matches, and in numbers that is the table. -/
theorem unknownWordsAreExactlyThese : Obligations.UnknownWordsAreExactlyThese := by
  intro cfg w n nn
  have bound : w.toNat < 65536 := w.isLt
  have opBound : w.toNat / 4096 < 16 := by omega
  have opZero : w.toNat ≤ 0x0FFF ↔ w.toNat / 4096 = 0 := by omega
  rw [decode_eq_unknown_iff, opZero]
  simp only [opcodeRows, List.forall_mem_append, rowsAddress_not_matches_iff,
    rowsRegisterByte_not_matches_iff, rowsTwoRegisters_not_matches_iff, rowsOneRegister_not_matches_iff]
  generalize w.toNat / 4096 = op at *
  interval_cases op <;> simp [n, nn]
  omega

/-- Only JP_OFF's well-formedness reads the configuration. -/
theorem Instr.wellFormed_of_forall_ne_jpOff {i : Instr} (other : ∀ nnn r, i ≠ .jpOff nnn r) (cfg : Config) :
    i.wellFormed cfg = true := by
  unfold Instr.wellFormed
  split
  · next nnn r => exact absurd rfl (other nnn r)
  · rfl

theorem decode_eq_unknown_of_eq_unknown {cfg : Config} {w w' : Word} (unknown : decode cfg w = .unknown w') :
    decode cfg w = .unknown w := by
  unfold decode at unknown ⊢
  split
  · next r found => simp [found] at unknown
  · rfl

theorem toNat_offsetRegister (cfg : Config) (nnn : Addr12) :
    (offsetRegister cfg nnn).toNat = if cfg.qJumpVx then nnn.toNat / 256 else 0 := by
  have := nnn.isLt
  unfold offsetRegister
  split
  · rw [BitVec.extractLsb'_toNat, Nat.shiftRight_eq_div_pow]
    omega
  · rfl

theorem toNat_wordA_div (op : BitVec 4) (nnn : Addr12) :
    (wordA op nnn).toNat / 4096 = op.toNat := by
  rw [← toNat_fieldOp, fieldOp_wordA]

/-- A word with the major opcode B is JP_OFF with its low 12 bits as address (R74, R75). -/
theorem decode_of_fieldOp_eq_B {cfg : Config} {w : Word} (isB : fieldOp w = 0xB) :
    decode cfg w = .known (.jpOff (fieldNNN w) (offsetRegister cfg (fieldNNN w))) := by
  have word : encode (.jpOff (fieldNNN w) (offsetRegister cfg (fieldNNN w))) = w := by
    rw [encode, ← isB, wordA_fields]
  rw [← decode_encode (Instr.wellFormed_jpOff_iff.2 rfl), word]

/-- Settles O6: a word that decodes under one configuration is the encoding of an instruction (O3), and where
that is no JP_OFF it decodes alike under the other (O2); UNKNOWN words are the same under both (O5). -/
theorem quirksTouchOnlyTheJumpOffset : Obligations.QuirksTouchOnlyTheJumpOffset := by
  intro cfg cfg' w
  refine ⟨fun notB => ?alike, fun isB => ?jumpOffset⟩
  case alike =>
    cases decoded : decode cfg w with
    | known i =>
      obtain ⟨-, rfl⟩ := encodeOfDecodeIsIdentity cfg w i decoded
      refine (decode_encode (Instr.wellFormed_of_forall_ne_jpOff (fun nnn r => ?_) cfg')).symm
      rintro rfl
      exact notB (toNat_wordA_div 0xB nnn)
    | unknown w' =>
      have here := decode_eq_unknown_of_eq_unknown decoded
      rw [← decoded, here, decode_eq_unknown_iff.2 (decode_eq_unknown_iff.1 here)]
  case jumpOffset =>
    refine ⟨fieldNNN w, offsetRegister cfg (fieldNNN w), decode_of_fieldOp_eq_B ?_, toNat_fieldNNN w, ?_⟩
    · exact BitVec.eq_of_toNat_eq ((toNat_fieldOp w).trans isB)
    · rw [toNat_offsetRegister, toNat_fieldNNN]
      have : w.toNat % 4096 / 256 = w.toNat / 256 % 16 := by omega
      rw [this]

end Sys2Proof
end

section
/-! PROOFS. What each instruction answers (spec/41_flow.md to spec/45_keypad_timers.md): one equation per
instruction that raises no fault, two per instruction that can raise one. -/

namespace Sys2Proof.Machine

variable (s : State) (x y : RegIdx)

/-! ### Control transfer -/

theorem exec_jp (nnn : Addr12) : exec (.jp nnn) s = .next (s.setPc (nnn.setWidth 16)) := rfl

theorem exec_jpOff (nnn : Addr12) (r : RegIdx) :
    exec (.jpOff nnn r) s = .next (s.setPc (nnn.setWidth 16 + (s.readV r).setWidth 16)) := rfl

theorem exec_seImm (nn : Byte) : exec (.seImm x nn) s = .next (s.skipIf (s.readV x == nn)) := rfl

theorem exec_sneImm (nn : Byte) : exec (.sneImm x nn) s = .next (s.skipIf (s.readV x != nn)) := rfl

theorem exec_seReg : exec (.seReg x y) s = .next (s.skipIf (s.readV x == s.readV y)) := rfl

theorem exec_sneReg : exec (.sneReg x y) s = .next (s.skipIf (s.readV x != s.readV y)) := rfl

theorem exec_skp : exec (.skp x) s = .next (s.skipIf (s.pressed (keyOf (s.readV x)))) := rfl

theorem exec_sknp : exec (.sknp x) s = .next (s.skipIf (!s.pressed (keyOf (s.readV x)))) := rfl

variable {s} in
theorem exec_ret_of_append {rest : List Word} {a : Word} (entries : s.stack = rest ++ [a]) :
    exec .ret s = .next { s with pc := a, stack := rest } := by
  rw [exec, execRet, s.pop_append entries]
  rfl

variable {s} in
theorem exec_ret_of_nil (empty : s.stack = []) : exec .ret s = .next (s.raise .stackUnderflow) := by
  rw [exec, execRet, s.pop_empty empty]

variable {s} in
theorem State.stackFull_iff : s.stackFull = true ↔ s.stack.length = s.config.stackDepth := beq_iff_eq

variable {s} in
theorem exec_call_of_room (nnn : Addr12) (room : s.stack.length ≠ s.config.stackDepth) :
    exec (.call nnn) s = .next ((s.push s.pc).setPc (nnn.setWidth 16)) :=
  if_neg (State.stackFull_iff.not.2 room)

variable {s} in
theorem exec_call_of_full (nnn : Addr12) (full : s.stack.length = s.config.stackDepth) :
    exec (.call nnn) s = .next (s.raise .stackOverflow) :=
  if_pos (State.stackFull_iff.2 full)

/-! ### Arithmetic and logic -/

theorem exec_addImm (nn : Byte) : exec (.addImm x nn) s = .next (s.writeV x (s.readV x + nn)) := rfl

theorem exec_ldReg : exec (.ldReg x y) s = .next (s.writeV x (s.readV y)) := rfl

theorem exec_orReg : exec (.orReg x y) s = .next (s.writeLogic x (s.readV x ||| s.readV y)) := rfl

theorem exec_andReg : exec (.andReg x y) s = .next (s.writeLogic x (s.readV x &&& s.readV y)) := rfl

theorem exec_xorReg : exec (.xorReg x y) s = .next (s.writeLogic x (s.readV x ^^^ s.readV y)) := rfl

theorem exec_addReg : exec (.addReg x y) s =
    .next (s.writeResultFlag x (s.readV x + s.readV y) (carryOut (s.readV x) (s.readV y))) := rfl

theorem exec_sub : exec (.sub x y) s =
    .next (s.writeResultFlag x (s.readV x - s.readV y) (notBorrow (s.readV x) (s.readV y))) := rfl

theorem exec_subn : exec (.subn x y) s =
    .next (s.writeResultFlag x (s.readV y - s.readV x) (notBorrow (s.readV y) (s.readV x))) := rfl

theorem exec_shr : exec (.shr x y) s =
    .next (s.writeResultFlag x (s.shiftSource x y >>> 1) (shiftedOutRight (s.shiftSource x y))) := rfl

theorem exec_shl : exec (.shl x y) s =
    .next (s.writeResultFlag x (s.shiftSource x y <<< 1) (shiftedOutLeft (s.shiftSource x y))) := rfl

theorem exec_rnd (nn : Byte) : exec (.rnd x nn) s =
    .next { s.writeV x (s.randomByte &&& nn) with draws := s.draws + 1 } := rfl

/-! ### Index register and memory -/

theorem exec_ldI (nnn : Addr12) : exec (.ldI nnn) s = .next (s.setI (nnn.setWidth 16)) := rfl

theorem exec_addI : exec (.addI x) s = .next (s.setI (s.i + (s.readV x).setWidth 16)) := rfl

theorem exec_ldF : exec (.ldF x) s = .next (s.setI (glyphAddr s.config.fontBase (s.readV x))) := rfl

@[simp] theorem length_decimalDigits (b : Byte) : (decimalDigits b).length = 3 := rfl

variable {s} in
theorem exec_ldB_of_inside (inside : s.i.toNat + 2 ≤ 0xFFF) :
    exec (.ldB x) s = .next (s.storeBytes s.i.toNat (decimalDigits (s.readV x))) := by
  obtain ⟨outside, -⟩ | ⟨-, stored⟩ := s.memWrite_cases s.i.toNat (decimalDigits (s.readV x))
  · rw [length_decimalDigits] at outside
    omega
  · rw [exec, execLdB, stored]

variable {s} in
theorem exec_ldB_of_outside (outside : s.i.toNat + 2 > 0xFFF) :
    exec (.ldB x) s = .next (s.raise .memoryOutOfBounds) := by
  obtain ⟨-, refused⟩ | ⟨inside, -⟩ := s.memWrite_cases s.i.toNat (decimalDigits (s.readV x))
  · rw [exec, execLdB, refused]
  · rw [length_decimalDigits] at inside
    omega

variable {s x} in
theorem exec_ldMemVx_of_inside (inside : s.i.toNat + x.toNat ≤ 0xFFF) :
    exec (.ldMemVx x) s =
      .next ((s.storeBytes s.i.toNat (s.readVs (x.toNat + 1))).advanceI (x.toNat + 1)) := by
  obtain ⟨outside, -⟩ | ⟨-, stored⟩ := s.memWrite_cases s.i.toNat (s.readVs (x.toNat + 1))
  · rw [State.length_readVs] at outside
    omega
  · rw [exec, execLdMemVx, stored]

variable {s x} in
theorem exec_ldMemVx_of_outside (outside : s.i.toNat + x.toNat > 0xFFF) :
    exec (.ldMemVx x) s = .next (s.raise .memoryOutOfBounds) := by
  obtain ⟨-, refused⟩ | ⟨inside, -⟩ := s.memWrite_cases s.i.toNat (s.readVs (x.toNat + 1))
  · rw [exec, execLdMemVx, refused]
  · rw [State.length_readVs] at inside
    omega

variable {s x} in
theorem exec_ldVxMem_of_inside (inside : s.i.toNat + x.toNat ≤ 0xFFF) :
    exec (.ldVxMem x) s = .next ((s.writeVs 0
      ((List.range (x.toNat + 1)).map fun k => s.readByte (s.i.toNat + k))).advanceI (x.toNat + 1)) := by
  obtain ⟨outside, -⟩ | ⟨-, loaded⟩ := s.memRead_cases s.i.toNat (x.toNat + 1)
  · omega
  · rw [exec, execLdVxMem, loaded]

variable {s x} in
theorem exec_ldVxMem_of_outside (outside : s.i.toNat + x.toNat > 0xFFF) :
    exec (.ldVxMem x) s = .next (s.raise .memoryOutOfBounds) := by
  obtain ⟨-, refused⟩ | ⟨inside, -⟩ := s.memRead_cases s.i.toNat (x.toNat + 1)
  · rw [exec, execLdVxMem, refused]
  · omega

/-! ### Display, keypad and sound -/

/-- The pixels that DRW names: those of the `n` bytes from I on, from the start coordinates that the two
registers give (spec/44_display.md R166). -/
def State.spriteAt (n : Nibble) : List (Fin 64 × Fin 32) :=
  spritePixels s.config.qDrawWrap ((s.readV x).toNat % 64) ((s.readV y).toNat % 32)
    ((List.range n.toNat).map fun k => s.readByte (s.i.toNat + k))

/-- The display and the flag that DRW leaves (R166). -/
def State.drawn (n : Nibble) : State :=
  (s.setDisplay (drawPixels s.display (s.spriteAt x y n)).1).writeV vf
    (flagByte (drawPixels s.display (s.spriteAt x y n)).2)

variable {s} in
theorem exec_drw_of_inBounds {n : Nibble} (inside : SpriteInBounds s n) :
    exec (.drw x y n) s = .next (s.drawn x y n) := by
  unfold SpriteInBounds at inside
  obtain ⟨rows, outside, -⟩ | ⟨-, loaded⟩ := s.spriteRows_cases n
  · omega
  · rw [exec, execDrw, loaded]
    rfl

variable {s} in
theorem exec_drw_of_outside {n : Nibble} (outside : ¬ SpriteInBounds s n) :
    exec (.drw x y n) s = .next (s.raise .memoryOutOfBounds) := by
  obtain ⟨-, -, refused⟩ | ⟨inside, -⟩ := s.spriteRows_cases n
  · rw [exec, execDrw, refused]
  · exact absurd inside outside

theorem exec_ldVxK : exec (.ldVxK x) s = .next { s with
    awaiting := true, waitReg := x,
    waitLatch := if s.config.keyWaitMode = .edge then none else s.waitLatch } := by
  rw [exec, execLdVxK]
  cases s.config.keyWaitMode <;> rfl

theorem exec_ldStVx : exec (.ldStVx x) s = .next (s.setST (s.readV x)) := rfl

end Sys2Proof.Machine
end

section
/-! PROOFS. The access table (spec/10_state.md R40): every instruction answers a next state, and in it only
what its row names has changed. -/

namespace Sys2Proof.Machine

section Registers

variable {p q : RegIdx → Prop} {s t : State}

theorem SameVBut.mono (same : SameVBut p s t) (le : ∀ r, p r → q r) : SameVBut q s t :=
  fun r other => same r fun named => other (le r named)

theorem State.writeResultFlag_sameVBut (s : State) (x : RegIdx) (r flag : Byte) :
    SameVBut (fun q => q = x ∨ q = 15) s (s.writeResultFlag x r flag) := by
  intro q other
  obtain ⟨notDest, notFlag⟩ := not_or.1 other
  rw [State.readV_writeResultFlag]
  exact (if_neg notFlag).trans (if_neg notDest)

theorem State.writeLogic_sameVBut (s : State) (x : RegIdx) (r : Byte) :
    SameVBut (fun q => q = x ∨ (q = 15 ∧ s.config.qLogicVfReset = true)) s (s.writeLogic x r) := by
  intro q other
  obtain ⟨notDest, notFlag⟩ := not_or.1 other
  rw [State.readV_writeLogic]
  exact (if_neg notFlag).trans (if_neg notDest)

theorem State.writeVs_sameVBut (s : State) {bytes : List Byte} (room : bytes.length ≤ 16) :
    SameVBut (fun q => q.toNat < bytes.length) s (s.writeVs 0 bytes) := by
  intro q other
  rw [State.readV_writeVs s bytes 0 (by omega), dif_neg (by omega)]

/-- Without the quirk a block transfer keeps I. -/
theorem State.qMemIncI_of_advanceI_ne {n : Nat} (moved : (s.advanceI n).i ≠ s.i) :
    s.config.qMemIncI = true := by
  by_contra quirk
  exact moved (by simp [State.advanceI, quirk])

end Registers

/-- The row of the access table for `i` (R40), its columns V and VF as `mayWriteV` has them, and what of the
model's own fields may change (log entries 4, 5, 6). -/
structure AccessRow (i : Instr) (s t : State) : Prop where
  mem : t.mem ≠ s.mem → ∃ x, i = .ldB x ∨ i = .ldMemVx x
  display : t.display ≠ s.display → i = .cls ∨ ∃ x y n, i = .drw x y n
  stack : t.stack ≠ s.stack → i = .ret ∨ ∃ nnn, i = .call nnn
  pc : t.pc ≠ s.pc → mayWritePc i = true
  fault : t.fault ≠ s.fault → mayRaise i = true
  index : t.i ≠ s.i → mayWriteI s.config i = true
  delay : t.dt ≠ s.dt → ∃ x, i = .ldDtVx x
  sound : t.st ≠ s.st ∨ t.sounds ≠ s.sounds → ∃ x, i = .ldStVx x
  draws : t.draws ≠ s.draws → ∃ x nn, i = .rnd x nn
  wait : t.awaiting ≠ s.awaiting ∨ t.waitReg ≠ s.waitReg ∨ t.waitLatch ≠ s.waitLatch → ∃ x, i = .ldVxK x
  keys : t.keys = s.keys
  lastPressed : t.lastPressed = s.lastPressed
  lastInst : t.lastInst = s.lastInst
  config : t.config = s.config
  cpuAcc : t.cpuAcc = s.cpuAcc
  tmrAcc : t.tmrAcc = s.tmrAcc
  schedule : t.schedule = s.schedule
  randIn : t.randIn = s.randIn
  registers : SameVBut (fun r => mayWriteV s.config r i = true) s t

namespace AccessRow

variable {i : Instr} {s t : State}

/-! ### The rows of instructions that share an effect -/

/-- Writing registers alone is within every row that names these registers. -/
theorem of_onlyV (only : OnlyV s t) (named : SameVBut (fun r => mayWriteV s.config r i = true) s t) :
    AccessRow i s t := by
  rw [OnlyV] at only
  generalize t.v = v at only
  subst only
  constructor <;> simp [named]

theorem writeV {x : RegIdx} (row : ∀ r, mayWriteV s.config r i = (r == x)) (b : Byte) :
    AccessRow i s (s.writeV x b) :=
  of_onlyV (s.writeV_onlyV x b) ((s.writeV_sameVBut x b).mono fun r named => by simpa [row] using named)

theorem writeResultFlag {x : RegIdx} (row : ∀ r, mayWriteV s.config r i = (r == x || r == 15))
    (b flag : Byte) : AccessRow i s (s.writeResultFlag x b flag) :=
  of_onlyV (s.writeResultFlag_onlyV x b flag)
    ((s.writeResultFlag_sameVBut x b flag).mono fun r named => by simpa [row] using named)

theorem writeLogic {x : RegIdx}
    (row : ∀ r, mayWriteV s.config r i = (r == x || (r == 15 && s.config.qLogicVfReset))) (b : Byte) :
    AccessRow i s (s.writeLogic x b) :=
  of_onlyV (s.writeLogic_onlyV x b)
    ((s.writeLogic_sameVBut x b).mono fun r named => by simpa [row] using named)

theorem setPc (jumps : mayWritePc i = true) (a : Word) : AccessRow i s (s.setPc a) := by
  constructor <;> simp [jumps, SameVBut]

theorem skipIf (jumps : mayWritePc i = true) (c : Bool) : AccessRow i s (s.skipIf c) :=
  s.skipIf_eq c ▸ setPc jumps _

theorem setI (moves : mayWriteI s.config i = true) (a : Word) : AccessRow i s (s.setI a) := by
  constructor <;> simp [moves, SameVBut]

theorem raise (raises : mayRaise i = true) (kind : FaultKind) : AccessRow i s (s.raise kind) := by
  constructor <;> simp [raises, SameVBut, State.readV]

/-! ### The rows of single instructions -/

theorem cls : AccessRow .cls s (s.setDisplay Display.blank) := by
  constructor <;> simp [SameVBut]

theorem drw (x y : RegIdx) (n : Nibble) : AccessRow (.drw x y n) s (s.drawn x y n) := by
  have named : SameVBut (fun r => mayWriteV s.config r (.drw x y n) = true) s (s.drawn x y n) :=
    (State.writeV_sameVBut (s.setDisplay _) 15 _).mono fun _ isFlag => beq_iff_eq.2 isFlag
  constructor
  case registers => exact named
  all_goals simp [State.drawn]

theorem ret {rest : List Word} {a : Word} : AccessRow .ret s { s with pc := a, stack := rest } := by
  constructor <;> simp [mayWritePc, SameVBut, State.readV]

theorem call (nnn : Addr12) (a b : Word) : AccessRow (.call nnn) s ((s.push a).setPc b) := by
  constructor <;> simp [mayWritePc, SameVBut, State.readV]

theorem rnd (x : RegIdx) (nn b : Byte) (k : Nat) :
    AccessRow (.rnd x nn) s { s.writeV x b with draws := k } := by
  have named : SameVBut (fun r => mayWriteV s.config r (.rnd x nn) = true) s
      { s.writeV x b with draws := k } :=
    (s.writeV_sameVBut x b).mono fun _ isDest => beq_iff_eq.2 isDest
  constructor
  case registers => exact named
  all_goals simp

theorem ldDtVx (x : RegIdx) (b : Byte) : AccessRow (.ldDtVx x) s (s.setDT b) := by
  constructor <;> simp [SameVBut, State.readV]

theorem ldStVx (x : RegIdx) (b : Byte) : AccessRow (.ldStVx x) s (s.setST b) := by
  constructor <;> simp [SameVBut, State.readV]

theorem ldVxK (x r : RegIdx) (b : Bool) (latch : Option Key) :
    AccessRow (.ldVxK x) s { s with awaiting := b, waitReg := r, waitLatch := latch } := by
  constructor <;> simp [SameVBut, State.readV]

theorem ldB (x : RegIdx) (a : Nat) (bytes : List Byte) : AccessRow (.ldB x) s (s.storeBytes a bytes) := by
  constructor <;> simp [SameVBut, State.readV]

theorem ldMemVx (x : RegIdx) (a n : Nat) (bytes : List Byte) :
    AccessRow (.ldMemVx x) s ((s.storeBytes a bytes).advanceI n) := by
  constructor
  case index => exact State.qMemIncI_of_advanceI_ne
  all_goals simp [State.advanceI_eq, SameVBut, State.readV]

theorem ldVxMem (x : RegIdx) (n : Nat) {bytes : List Byte} (length : bytes.length = x.toNat + 1) :
    AccessRow (.ldVxMem x) s ((s.writeVs 0 bytes).advanceI n) := by
  have named : SameVBut (fun r => mayWriteV s.config r (.ldVxMem x) = true) s (s.writeVs 0 bytes) :=
    (s.writeVs_sameVBut (by omega)).mono fun r isLoaded => decide_eq_true (by omega)
  constructor
  case index =>
    intro moved
    rw [← s.writeVs_i 0 bytes] at moved
    exact s.writeVs_config 0 bytes ▸ State.qMemIncI_of_advanceI_ne moved
  case registers => exact State.advanceI_eq _ n ▸ named
  all_goals simp [State.advanceI_eq]

end AccessRow

/-- What an instruction can do: it answers a next state, in which only what its row names has changed. -/
theorem exec_accessRow (i : Instr) (s : State) : ∃ t, exec i s = .next t ∧ AccessRow i s t := by
  cases i with
  | cls => exact ⟨_, exec_cls s, .cls⟩
  | ret =>
    obtain ⟨empty, -⟩ | ⟨rest, a, entries, -⟩ := s.pop_cases
    · exact ⟨_, exec_ret_of_nil empty, .raise rfl _⟩
    · exact ⟨_, exec_ret_of_append entries, .ret⟩
  | jp nnn => exact ⟨_, exec_jp s nnn, .setPc rfl _⟩
  | call nnn =>
    by_cases full : s.stack.length = s.config.stackDepth
    · exact ⟨_, exec_call_of_full nnn full, .raise rfl _⟩
    · exact ⟨_, exec_call_of_room nnn full, .call ..⟩
  | seImm x nn => exact ⟨_, exec_seImm s x nn, .skipIf rfl _⟩
  | sneImm x nn => exact ⟨_, exec_sneImm s x nn, .skipIf rfl _⟩
  | seReg x y => exact ⟨_, exec_seReg s x y, .skipIf rfl _⟩
  | sneReg x y => exact ⟨_, exec_sneReg s x y, .skipIf rfl _⟩
  | ldImm x nn => exact ⟨_, exec_ldImm x nn s, .writeV (fun _ => rfl) _⟩
  | addImm x nn => exact ⟨_, exec_addImm s x nn, .writeV (fun _ => rfl) _⟩
  | ldReg x y => exact ⟨_, exec_ldReg s x y, .writeV (fun _ => rfl) _⟩
  | orReg x y => exact ⟨_, exec_orReg s x y, .writeLogic (fun _ => rfl) _⟩
  | andReg x y => exact ⟨_, exec_andReg s x y, .writeLogic (fun _ => rfl) _⟩
  | xorReg x y => exact ⟨_, exec_xorReg s x y, .writeLogic (fun _ => rfl) _⟩
  | addReg x y => exact ⟨_, exec_addReg s x y, .writeResultFlag (fun _ => rfl) _ _⟩
  | sub x y => exact ⟨_, exec_sub s x y, .writeResultFlag (fun _ => rfl) _ _⟩
  | shr x y => exact ⟨_, exec_shr s x y, .writeResultFlag (fun _ => rfl) _ _⟩
  | subn x y => exact ⟨_, exec_subn s x y, .writeResultFlag (fun _ => rfl) _ _⟩
  | shl x y => exact ⟨_, exec_shl s x y, .writeResultFlag (fun _ => rfl) _ _⟩
  | ldI nnn => exact ⟨_, exec_ldI s nnn, .setI rfl _⟩
  | addI x => exact ⟨_, exec_addI s x, .setI rfl _⟩
  | rnd x nn => exact ⟨_, exec_rnd s x nn, .rnd ..⟩
  | drw x y n =>
    by_cases inside : SpriteInBounds s n
    · exact ⟨_, exec_drw_of_inBounds x y inside, .drw x y n⟩
    · exact ⟨_, exec_drw_of_outside x y inside, .raise rfl _⟩
  | skp x => exact ⟨_, exec_skp s x, .skipIf rfl _⟩
  | sknp x => exact ⟨_, exec_sknp s x, .skipIf rfl _⟩
  | ldVxDt x => exact ⟨_, exec_ldVxDt x s, .writeV (fun _ => rfl) _⟩
  | ldDtVx x => exact ⟨_, exec_ldDtVx x s, .ldDtVx ..⟩
  | ldStVx x => exact ⟨_, exec_ldStVx s x, .ldStVx ..⟩
  | ldB x =>
    by_cases inside : s.i.toNat + 2 ≤ 0xFFF
    · exact ⟨_, exec_ldB_of_inside x inside, .ldB ..⟩
    · exact ⟨_, exec_ldB_of_outside x (Nat.not_le.1 inside), .raise rfl _⟩
  | ldF x => exact ⟨_, exec_ldF s x, .setI rfl _⟩
  | ldMemVx x =>
    by_cases inside : s.i.toNat + x.toNat ≤ 0xFFF
    · exact ⟨_, exec_ldMemVx_of_inside inside, .ldMemVx ..⟩
    · exact ⟨_, exec_ldMemVx_of_outside (Nat.not_le.1 inside), .raise rfl _⟩
  | ldVxMem x =>
    by_cases inside : s.i.toNat + x.toNat ≤ 0xFFF
    · exact ⟨_, exec_ldVxMem_of_inside inside, .ldVxMem x _ (by simp)⟩
    · exact ⟨_, exec_ldVxMem_of_outside (Nat.not_le.1 inside), .raise rfl _⟩
  | jpOff nnn r => exact ⟨_, exec_jpOff s nnn r, .setPc rfl _⟩
  | ldVxK x => exact ⟨_, exec_ldVxK s x, .ldVxK ..⟩

theorem accessRow_of_exec {i : Instr} {s t : State} (answered : exec i s = .next t) : AccessRow i s t := by
  obtain ⟨t', answered', row⟩ := exec_accessRow i s
  cases answered.symm.trans answered'
  exact row

/-- Settles O46: the row of the instruction, column by column. -/
theorem writesFollowTheAccessTable : Obligations.WritesFollowTheAccessTable := by
  intro i s t answered
  have row := accessRow_of_exec answered
  exact ⟨row.mem, row.display, row.stack, row.pc, row.fault, row.index, row.delay, row.sound, row.draws,
    row.wait, row.keys, row.lastPressed, row.lastInst, row.config, row.cpuAcc, row.tmrAcc, row.schedule,
    row.randIn⟩

/-- Settles O47: the columns V and VF of the instruction's row. -/
theorem registersChangeOnlyAsDestinations : Obligations.RegistersChangeOnlyAsDestinations := by
  intro i s t r answered changed
  by_contra unnamed
  exact changed ((accessRow_of_exec answered).registers r unnamed)

end Sys2Proof.Machine
end

section
/-! PROOFS. The instruction cycle (spec/40_cycle.md): a cycle by what gates it, what UNKNOWN does, a step by
what the schedule names. -/

namespace Sys2Proof.Machine

section Laws

variable {s : State} {w : Word} (rand : Option Byte)

/-- The fault gate (R91). -/
theorem cycle_of_fault (faulted : s.fault ≠ none) : cycle rand s = .next s := by
  rw [cycle, if_pos (Option.isSome_iff_ne_none.2 faulted)]

/-- The fault gate of the tick (spec/60_exceptions.md R215). -/
theorem tick60_of_fault (faulted : s.fault ≠ none) : tick60 s = s :=
  if_pos (Option.isSome_iff_ne_none.2 faulted)

theorem cycle_of_fetch_eq_none (ready : s.Ready) (refused : s.fetch = none) :
    cycle rand s = .next s.raiseFetch := by
  obtain ⟨noFault, notAwaiting⟩ := ready
  simp [cycle, noFault, notAwaiting, refused]

theorem cycle_of_fetch_eq_some (ready : s.Ready) (fetched : s.fetch = some w) :
    cycle rand s = execute (decode s.config w) (s.beginExec rand w (decode s.config w)) := by
  obtain ⟨noFault, notAwaiting⟩ := ready
  simp [cycle, noFault, notAwaiting, fetched]

theorem State.fetch_of_outside (outside : s.pc.toNat + 1 > 0xFFF) : s.fetch = none := by
  obtain ⟨-, refused⟩ | ⟨inside, -⟩ := s.fetch_cases
  · exact refused
  · omega

theorem execute_known (i : Instr) (s : State) : execute (.known i) s = exec i s := rfl

theorem execute_unknown (w : Word) (s : State) : execute (.unknown w) s = .next (execUnknown s) := rfl

theorem execUnknown_of_fault (policy : s.config.unknownPolicy = .fault) :
    execUnknown s = s.raise .unknownOpcode := by
  rw [execUnknown, policy]

theorem execUnknown_of_skip (policy : s.config.unknownPolicy = .skip) : execUnknown s = s := by
  rw [execUnknown, policy]

theorem keyWaitCheck_of_level_of_lastPressed_eq_none (level : s.config.keyWaitMode = .level)
    (untracked : s.lastPressed = none) : keyWaitCheck s = s := by
  simp [keyWaitCheck, level, untracked]

theorem keyWaitCheck_of_level_of_lastPressed_eq_some {k : Key} (level : s.config.keyWaitMode = .level)
    (tracked : s.lastPressed = some k) : keyWaitCheck s = s.resolveWait k := by
  simp [keyWaitCheck, level, tracked]

theorem step_of_schedule_eq_nil (idle : s.schedule = []) : step s = cycle none s := by
  rw [step, nextEvent, idle]

theorem step_of_schedule_eq_cons {e : Event} {rest : List Event} (due : s.schedule = e :: rest) :
    step s = takeEvent e { s with schedule := rest } := by
  rw [step, nextEvent, due]

theorem State.Ready.withSchedule (ready : s.Ready) (rest : List Event) :
    State.Ready { s with schedule := rest } := ready

end Laws

/-- Settles O9: one law for each of the four gates. -/
theorem cycleFollowsItsOrder : Obligations.CycleFollowsItsOrder := by
  intro rand s
  refine ⟨cycle_of_fault rand, cycle_of_awaiting rand, fun ready outside => ?outside,
    fun ready inside w word => ?inside⟩
  case outside => exact cycle_of_fetch_eq_none rand ready (State.fetch_of_outside outside)
  case inside => exact cycle_of_fetch_eq_some rand ready (word ▸ State.fetch_of_inMemory inside)

/-- Settles O8: the step is a cycle, with no byte or with the scheduled one; its fetch gives `w`, and `w`
decodes to `i`. -/
theorem stepRunsTheDecodedInstruction : Obligations.StepRunsTheDecodedInstruction := by
  intro s i w ready inside word decoded wf
  have fetched : s.fetch = some w := word ▸ State.fetch_of_inMemory inside
  have known : decode s.config w = .known i := by
    simpa [decodeBytes, word] using decoded
  refine ⟨fun idle => ?idle, fun b rest due => ?scheduled⟩
  case idle =>
    rw [step_of_schedule_eq_nil idle, cycle_of_fetch_eq_some none ready fetched, known]
    rfl
  case scheduled =>
    rw [step_of_schedule_eq_cons due, takeEvent,
      cycle_of_fetch_eq_some (some b) (ready.withSchedule rest) fetched, known]
    rfl

/-- Settles O10: a waiting core runs the key-wait check, and in level mode that asks for the tracked key. -/
theorem levelWaitEndsOnATrackedKey : Obligations.LevelWaitEndsOnATrackedKey := by
  intro rand s noFault waiting level
  rw [cycle_of_awaiting rand noFault waiting]
  refine ⟨fun untracked => ?blocked, fun k tracked => ?resolved⟩
  case blocked => rw [keyWaitCheck_of_level_of_lastPressed_eq_none level untracked]
  case resolved =>
    rw [keyWaitCheck_of_level_of_lastPressed_eq_some level tracked]
    exact ⟨_, rfl, s.toNat_readV_resolveWait_waitReg k, s.resolveWait_sameVBut k, rfl, rfl⟩

/-- Settles O44: the fault gates of the cycle and of the tick; a step of either event is that on the state
without the event. -/
theorem faultedCoreStandsStill : Obligations.FaultedCoreStandsStill := by
  intro rand s faulted
  refine ⟨cycle_of_fault rand faulted, tick60_of_fault faulted, fun idle => ?idle, fun b rest due => ?cycle,
    fun rest due => ?tick⟩
  case idle => rw [step_of_schedule_eq_nil idle, cycle_of_fault none faulted]
  case cycle =>
    rw [step_of_schedule_eq_cons due]
    exact cycle_of_fault (some b) faulted
  case tick =>
    rw [step_of_schedule_eq_cons due, takeEvent]
    exact congrArg _ (tick60_of_fault faulted)

/-- Settles O45: the cycle executes UNKNOWN, which raises or does nothing by the policy. -/
theorem unknownWordFaultsOrIsSkipped : Obligations.UnknownWordFaultsOrIsSkipped := by
  intro rand s w ready fetched unknown
  rw [cycle_of_fetch_eq_some rand ready fetched, unknown, execute_unknown]
  refine ⟨fun policy => ?fault, fun policy => ?skip⟩
  case fault =>
    rw [execUnknown_of_fault (s := s.beginExec rand w (.unknown w)) policy, State.raise_beginExec]
    rfl
  case skip =>
    rw [execUnknown_of_skip (s := s.beginExec rand w (.unknown w)) policy]
    rfl

end Sys2Proof.Machine
end

section
/-! PROOFS. The faults of a cycle (spec/60_exceptions.md R200 to R205): an instruction whose cause holds only
raises, one whose cause does not leaves the latch as it was; so every event completes. -/

namespace Sys2Proof.Machine

variable {i : Instr} {s : State}

/-- An instruction whose cause holds raises it and does nothing else. -/
theorem exec_of_faultCause_eq_some {kind : FaultKind} (cause : faultCause s (.known i) = some kind) :
    exec i s = .next (s.raise kind) := by
  cases i with
  | call nnn =>
    obtain ⟨full, ⟨⟩⟩ := Option.ite_none_right_eq_some.1 cause
    exact exec_call_of_full nnn full
  | ret =>
    obtain ⟨empty, ⟨⟩⟩ := Option.ite_none_right_eq_some.1 cause
    exact exec_ret_of_nil (List.eq_nil_of_length_eq_zero empty)
  | ldB x =>
    obtain ⟨outside, ⟨⟩⟩ := Option.ite_none_right_eq_some.1 cause
    exact exec_ldB_of_outside x (by omega)
  | ldMemVx x =>
    obtain ⟨outside, ⟨⟩⟩ := Option.ite_none_right_eq_some.1 cause
    exact exec_ldMemVx_of_outside outside
  | ldVxMem x =>
    obtain ⟨outside, ⟨⟩⟩ := Option.ite_none_right_eq_some.1 cause
    exact exec_ldVxMem_of_outside outside
  | drw x y n =>
    obtain ⟨outside, ⟨⟩⟩ := Option.ite_none_right_eq_some.1 cause
    exact exec_drw_of_outside x y (by unfold SpriteInBounds; omega)
  | _ => cases cause

theorem not_of_ite_some_eq_none {p : Prop} [Decidable p] {kind : FaultKind}
    (none_eq : (if p then some kind else none) = none) : ¬ p :=
  fun holds => Option.some_ne_none kind (ite_eq_right_iff.1 none_eq holds)

theorem exec_of_mayRaise_eq_false (quiet : mayRaise i = false) :
    ∃ t, exec i s = .next t ∧ t.fault = s.fault := by
  obtain ⟨t, answered, row⟩ := exec_accessRow i s
  refine ⟨t, answered, not_not.1 fun changed => ?_⟩
  exact Bool.false_ne_true (quiet.symm.trans (row.fault changed))

/-- An instruction whose cause does not hold leaves the fault latch as it was. -/
theorem exec_of_faultCause_eq_none (cause : faultCause s (.known i) = none) :
    ∃ t, exec i s = .next t ∧ t.fault = s.fault := by
  cases i with
  | call nnn => exact ⟨_, exec_call_of_room nnn (not_of_ite_some_eq_none cause), rfl⟩
  | ret =>
    have nonempty : ¬ s.stack.length = 0 := not_of_ite_some_eq_none cause
    obtain ⟨empty, -⟩ | ⟨rest, a, entries, -⟩ := s.pop_cases
    · exact absurd (congrArg List.length empty) nonempty
    · exact ⟨_, exec_ret_of_append entries, rfl⟩
  | ldB x =>
    have inside : ¬ s.i.toNat ≥ 0xFFE := not_of_ite_some_eq_none cause
    exact ⟨_, exec_ldB_of_inside x (by omega), rfl⟩
  | ldMemVx x =>
    refine ⟨_, exec_ldMemVx_of_inside (Nat.not_lt.1 (not_of_ite_some_eq_none cause)), ?_⟩
    simp [State.advanceI_eq]
  | ldVxMem x =>
    refine ⟨_, exec_ldVxMem_of_inside (Nat.not_lt.1 (not_of_ite_some_eq_none cause)), ?_⟩
    simp [State.advanceI_eq]
  | drw x y n =>
    have inside : ¬ (n.toNat ≥ 1 ∧ s.i.toNat + n.toNat - 1 > 0xFFF) := not_of_ite_some_eq_none cause
    exact ⟨_, exec_drw_of_inBounds x y (by unfold SpriteInBounds; omega), rfl⟩
  | _ => exact exec_of_mayRaise_eq_false rfl

/-- Settles O43: the cycle executes the decoded form on the state begun, which raises exactly where the table
has a cause; the record's address is the fetch address, `pc` minus 2 after the advance. -/
theorem faultsArePrecise : Obligations.FaultsArePrecise := by
  intro rand s w ready fetched
  have noFault : s.fault = none := ready.1
  rw [cycle_of_fetch_eq_some rand ready fetched]
  cases decode s.config w with
  | known i =>
    rw [execute_known]
    refine ⟨fun kind cause => ?raises, fun cause => ?quiet⟩
    case raises =>
      rw [exec_of_faultCause_eq_some (s := s.beginExec rand w (.known i)) cause, State.raise_beginExec]
      rfl
    case quiet =>
      obtain ⟨t, answered, kept⟩ :=
        exec_of_faultCause_eq_none (s := s.beginExec rand w (.known i)) cause
      exact ⟨t, answered, kept.trans noFault⟩
  | unknown w' =>
    rw [execute_unknown]
    refine ⟨fun kind cause => ?raisesUnknown, fun cause => ?skips⟩
    case raisesUnknown =>
      obtain ⟨policy, ⟨⟩⟩ := Option.ite_none_right_eq_some.1 cause
      rw [execUnknown_of_fault (s := s.beginExec rand w (.unknown w')) policy, State.raise_beginExec]
      rfl
    case skips =>
      have policy : s.config.unknownPolicy = .skip := by
        have := not_of_ite_some_eq_none cause
        cases h : s.config.unknownPolicy
        · exact absurd h this
        · rfl
      rw [execUnknown_of_skip (s := s.beginExec rand w (.unknown w')) policy]
      exact ⟨_, rfl, noFault⟩

end Sys2Proof.Machine
end

section
/-! PROOFS. What an event can do to a machine, as case lists for next states, and the first rules that every
event keeps: it completes, it keeps the configuration, it sends a notification exactly on a crossing of ST. -/

namespace Sys2Proof.Machine

section Laws

variable {s t : State}

theorem execute_completes (d : Decoded) (s : State) : ∃ t, execute d s = .next t := by
  cases d with
  | known i =>
    obtain ⟨t, answered, -⟩ := exec_accessRow i s
    exact ⟨t, answered⟩
  | unknown w => exact ⟨_, execute_unknown w s⟩

theorem cycle_completes (rand : Option Byte) (s : State) : ∃ t, cycle rand s = .next t := by
  obtain ⟨-, eq⟩ | ⟨-, -, eq⟩ | ⟨-, -, eq⟩ | ⟨w, -, -, eq⟩ := cycle_cases s rand
  · exact ⟨_, eq⟩
  · exact ⟨_, eq⟩
  · exact ⟨_, eq⟩
  · rw [eq]
    exact execute_completes ..

/-- What executing a decoded form can do: an instruction's meaning, or UNKNOWN under either policy. -/
theorem execute_next_cases {d : Decoded} (answered : execute d s = .next t) :
    (∃ i, exec i s = .next t) ∨ t = s ∨ t = s.raise .unknownOpcode := by
  cases d with
  | known i => exact .inl ⟨i, answered⟩
  | unknown w =>
    cases answered
    cases policy : s.config.unknownPolicy
    · exact .inr (.inr (execUnknown_of_fault policy))
    · exact .inr (.inl (execUnknown_of_skip policy))

/-- What a cycle can do: nothing, the key-wait check, the fetch fault, or executing what it has fetched. -/
theorem cycle_next_cases {rand : Option Byte} (answered : cycle rand s = .next t) :
    t = s ∨ t = keyWaitCheck s ∨ t = s.raiseFetch ∨
      ∃ w d, s.pc.toNat ≤ 0xFFE ∧ execute d (s.beginExec rand w d) = .next t := by
  obtain ⟨-, eq⟩ | ⟨-, -, eq⟩ | ⟨-, -, eq⟩ | ⟨w, -, fetched, eq⟩ := cycle_cases s rand
  · cases eq.symm.trans answered
    exact .inl rfl
  · cases eq.symm.trans answered
    exact .inr (.inl rfl)
  · cases eq.symm.trans answered
    exact .inr (.inr (.inl rfl))
  · refine .inr (.inr (.inr ⟨w, _, ?_, eq.symm.trans answered⟩))
    obtain ⟨-, refused⟩ | ⟨inside, -⟩ := s.fetch_cases
    · cases refused.symm.trans fetched
    · exact inside

/-- What a step can do: a cycle, a tick, a key event or a Reset, on the state without the event taken. -/
theorem step_next_cases (answered : step s = .next t) :
    ∃ rest, (∃ rand, cycle rand { s with schedule := rest } = .next t) ∨
      t = tick60 { s with schedule := rest } ∨ (∃ k, t = keyPress k { s with schedule := rest }) ∨
      (∃ k, t = keyRelease k { s with schedule := rest }) ∨
      ∃ image cfg, s.schedule = .reset image cfg :: rest ∧
        resetMachine image cfg { s with schedule := rest } = .next t := by
  obtain ⟨-, eq⟩ | ⟨e, rest, due, eq⟩ := step_cases s
  · exact ⟨s.schedule, .inl ⟨none, eq.symm.trans answered⟩⟩
  · refine ⟨rest, ?_⟩
    rw [eq] at answered
    cases e with
    | cycle b => exact .inl ⟨some b, answered⟩
    | tick60 =>
      cases answered
      exact .inr (.inl rfl)
    | keyPress k =>
      cases answered
      exact .inr (.inr (.inl ⟨k, rfl⟩))
    | keyRelease k =>
      cases answered
      exact .inr (.inr (.inr (.inl ⟨k, rfl⟩)))
    | reset image cfg => exact .inr (.inr (.inr (.inr ⟨image, cfg, due, answered⟩)))

end Laws

/-- Settles O49: an instruction answers by its access row; of the events only a Reset can answer no next
state, and an accepted one answers the loaded machine. -/
theorem everyEventCompletes : Obligations.EveryEventCompletes := by
  refine ⟨fun i s => execute_completes (.known i) s, fun s noReset => ?events,
    fun s image cfg rest due valid fits => ?reset⟩
  case events =>
    obtain ⟨-, eq⟩ | ⟨e, rest, due, eq⟩ := step_cases s
    · rw [eq]
      exact cycle_completes none s
    · rw [eq]
      cases e with
      | cycle b => exact cycle_completes (some b) _
      | tick60 => exact ⟨_, rfl⟩
      | keyPress k => exact ⟨_, rfl⟩
      | keyRelease k => exact ⟨_, rfl⟩
      | reset image cfg => exact absurd due (noReset image cfg rest)
  case reset =>
    rw [step_of_schedule_eq_cons due]
    exact ⟨_, resetMachine_of_length_le _ valid fits⟩

/-! ### What every event but a Reset carries over -/

/-- The rules that relate a state to the one after any event but a Reset: the configuration stays, and a
notification is sent exactly on a crossing of ST (spec/10_state.md R35, spec/60_exceptions.md R216). -/
structure Carries (s t : State) : Prop where
  config : t.config = s.config
  sounds : t.sounds = s.sounds ++ soundCrossing s.st t.st

theorem soundCrossing_self (b : Byte) : soundCrossing b b = [] := by simp [soundCrossing]

section Laws

variable {s t : State}

/-- An effect that touches neither the configuration nor ST nor the notifications. -/
theorem Carries.of_eq (config : t.config = s.config) (st : t.st = s.st) (sounds : t.sounds = s.sounds) :
    Carries s t :=
  ⟨config, by rw [sounds, st, soundCrossing_self, List.append_nil]⟩

theorem exec_carries {i : Instr} (answered : exec i s = .next t) : Carries s t := by
  have row := accessRow_of_exec answered
  by_cases changed : t.st ≠ s.st ∨ t.sounds ≠ s.sounds
  · obtain ⟨x, rfl⟩ := row.sound changed
    cases answered
    exact ⟨rfl, rfl⟩
  · rw [not_or, not_not, not_not] at changed
    exact .of_eq row.config changed.1 changed.2

theorem keyWaitCheck_carries (s : State) : Carries s (keyWaitCheck s) := by
  obtain ⟨-, -, eq⟩ | ⟨k, -, -, eq⟩ | ⟨-, -, eq⟩ | ⟨k, -, -, eq⟩ := keyWaitCheck_cases s <;>
    rw [eq] <;> exact .of_eq rfl rfl rfl

theorem cycle_carries {rand : Option Byte} (answered : cycle rand s = .next t) : Carries s t := by
  obtain rfl | rfl | rfl | ⟨w, d, -, executed⟩ := cycle_next_cases answered
  · exact .of_eq rfl rfl rfl
  · exact keyWaitCheck_carries s
  · exact .of_eq rfl rfl rfl
  · obtain ⟨i, known⟩ | rfl | rfl := execute_next_cases executed
    · exact ⟨(exec_carries known).config, (exec_carries known).sounds⟩
    · exact .of_eq rfl rfl rfl
    · exact .of_eq rfl rfl rfl

theorem tick60_carries (s : State) : Carries s (tick60 s) := by
  unfold tick60
  split
  · exact .of_eq rfl rfl rfl
  · exact ⟨rfl, rfl⟩

theorem step_carries (noReset : s.NoReset) (answered : step s = .next t) : Carries s t := by
  obtain ⟨rest, ⟨rand, cycled⟩ | rfl | ⟨k, rfl⟩ | ⟨k, rfl⟩ | ⟨image, cfg, due, -⟩⟩ := step_next_cases answered
  · exact ⟨(cycle_carries cycled).config, (cycle_carries cycled).sounds⟩
  · exact ⟨(tick60_carries _).config, (tick60_carries _).sounds⟩
  · exact .of_eq rfl rfl rfl
  · exact .of_eq rfl rfl rfl
  · exact absurd due (noReset image cfg rest)

/-- What an accepted Reset answers (spec/70_reset_and_hazards.md R240; log entry 16). -/
theorem resetMachine_next_iff {image : List Byte} {cfg : Config} :
    resetMachine image cfg s = .next t ↔ cfg.valid = true ∧ image.length ≤ 3584 ∧
      t = { State.loaded image cfg with schedule := s.schedule, draws := s.draws, sounds := s.sounds } := by
  constructor
  · intro answered
    cases valid : cfg.valid with
    | false => simp [resetMachine, valid] at answered
    | true =>
      by_cases fits : image.length ≤ 3584
      · rw [resetMachine_of_length_le s valid fits] at answered
        cases answered
        exact ⟨rfl, fits, rfl⟩
      · rw [resetMachine_of_length_gt s valid (Nat.not_le.1 fits)] at answered
        cases answered
  · rintro ⟨valid, fits, rfl⟩
    exact resetMachine_of_length_le s valid fits

/-- A step that takes a Reset leaves the loaded machine with the host's record. -/
theorem step_next_of_reset {image : List Byte} {cfg : Config} {rest : List Event}
    (due : s.schedule = .reset image cfg :: rest) (answered : step s = .next t) :
    t = { State.loaded image cfg with schedule := rest, draws := s.draws, sounds := s.sounds } := by
  rw [step_of_schedule_eq_cons due] at answered
  exact (resetMachine_next_iff.1 answered).2.2

end Laws

/-- Settles O41: each event but a Reset carries the rule; a Reset keeps the list. -/
theorem soundFollowsTheSoundTimer : Obligations.SoundFollowsTheSoundTimer :=
  ⟨fun _ _ noReset answered => (step_carries noReset answered).sounds,
    fun _ _ _ _ _ due answered => step_next_of_reset due answered ▸ rfl⟩

/-- Settles O48: each event but a Reset carries the configuration; a Reset loads a machine with its own. -/
theorem configurationIsImmutable : Obligations.ConfigurationIsImmutable :=
  ⟨fun _ _ noReset answered => (step_carries noReset answered).config,
    fun _ _ _ _ _ due answered => step_next_of_reset due answered ▸ rfl,
    fun _ _ _ answered => (exec_carries answered).config⟩

end Sys2Proof.Machine
end

section
/-! PROOFS. The invariant (spec/10_state.md R41): it holds at reset, and every event keeps it. -/

namespace Sys2Proof.Machine

section Laws

variable {s t : State}

/-- The invariant reads eight fields of the state. -/
theorem State.Inv.of_eq (inv : s.Inv) (config : t.config = s.config) (stack : t.stack = s.stack)
    (pc : t.pc = s.pc) (latch : t.waitLatch = s.waitLatch) (awaiting : t.awaiting = s.awaiting)
    (tracked : t.lastPressed = s.lastPressed) (keys : t.keys = s.keys) (mem : t.mem = s.mem) : t.Inv where
  configValid := config ▸ inv.configValid
  stackBound := stack ▸ config ▸ inv.stackBound
  returnBound := stack ▸ inv.returnBound
  pcBound := pc ▸ inv.pcBound
  latchWaits := latch ▸ awaiting ▸ config ▸ inv.latchWaits
  trackedDown := by
    simpa only [State.keyDown, tracked, keys] using inv.trackedDown
  memCanonical := by
    rw [State.unlisted, config, mem]
    exact inv.memCanonical

/-! ### What an instruction does to the parts that the invariant bounds -/

theorem exec_mem_wf {i : Instr} (canonical : Memory.wf s.unlisted s.mem) (answered : exec i s = .next t) :
    Memory.wf s.unlisted t.mem := by
  by_cases same : t.mem = s.mem
  · rwa [same]
  · obtain ⟨x, rfl | rfl⟩ := (accessRow_of_exec answered).mem same
    · by_cases inside : s.i.toNat + 2 ≤ 0xFFF
      · cases (exec_ldB_of_inside x inside).symm.trans answered
        exact Memory.wf_writeAll _ _ canonical (by rw [length_decimalDigits, memSize]; omega)
      · cases (exec_ldB_of_outside x (Nat.not_le.1 inside)).symm.trans answered
        exact canonical
    · by_cases inside : s.i.toNat + x.toNat ≤ 0xFFF
      · cases (exec_ldMemVx_of_inside inside).symm.trans answered
        rw [State.advanceI_eq]
        exact Memory.wf_writeAll _ _ canonical (by rw [State.length_readVs, memSize]; omega)
      · cases (exec_ldMemVx_of_outside (Nat.not_le.1 inside)).symm.trans answered
        exact canonical

theorem exec_stack_cases {i : Instr} (answered : exec i s = .next t) :
    t.stack = s.stack ∨ (∃ a, s.stack = t.stack ++ [a]) ∨
      (t.stack = s.stack ++ [s.pc] ∧ s.stack.length ≠ s.config.stackDepth) := by
  by_cases same : t.stack = s.stack
  · exact .inl same
  · obtain rfl | ⟨nnn, rfl⟩ := (accessRow_of_exec answered).stack same
    · obtain ⟨empty, -⟩ | ⟨rest, a, entries, -⟩ := s.pop_cases
      · cases (exec_ret_of_nil empty).symm.trans answered
        exact .inl rfl
      · cases (exec_ret_of_append entries).symm.trans answered
        exact .inr (.inl ⟨a, entries⟩)
    · by_cases full : s.stack.length = s.config.stackDepth
      · cases (exec_call_of_full nnn full).symm.trans answered
        exact .inl rfl
      · cases (exec_call_of_room nnn full).symm.trans answered
        exact .inr (.inr ⟨rfl, full⟩)

/-- Where an instruction can leave `pc` (spec/41_flow.md): at the next instruction, at the one after it, at a
return address, at an address or an address plus a byte. -/
def State.PcTarget (s : State) (a : Word) : Prop :=
  a = s.pc ∨ a = s.pc + 2 ∨ a ∈ s.stack ∨ ∃ (nnn : Addr12) (b : Byte), a = nnn.setWidth 16 + b.setWidth 16

theorem State.pcTarget_skipIf (s : State) (c : Bool) : s.PcTarget (s.skipIf c).pc := by
  cases c
  · exact .inl rfl
  · exact .inr (.inl rfl)

theorem State.pcTarget_address (s : State) (nnn : Addr12) : s.PcTarget (nnn.setWidth 16) :=
  .inr (.inr (.inr ⟨nnn, 0, by simp⟩))

theorem exec_pcTarget {i : Instr} (answered : exec i s = .next t) : s.PcTarget t.pc := by
  by_cases same : t.pc = s.pc
  · exact .inl same
  · have jumps := (accessRow_of_exec answered).pc same
    cases i with
    | ret =>
      obtain ⟨empty, -⟩ | ⟨rest, a, entries, -⟩ := s.pop_cases
      · cases (exec_ret_of_nil empty).symm.trans answered
        exact .inl rfl
      · cases (exec_ret_of_append entries).symm.trans answered
        exact .inr (.inr (.inl (entries ▸ List.mem_concat_self)))
    | jp nnn =>
      cases answered
      exact s.pcTarget_address nnn
    | call nnn =>
      by_cases full : s.stack.length = s.config.stackDepth
      · cases (exec_call_of_full nnn full).symm.trans answered
        exact .inl rfl
      · cases (exec_call_of_room nnn full).symm.trans answered
        exact s.pcTarget_address nnn
    | jpOff nnn r =>
      cases answered
      exact .inr (.inr (.inr ⟨nnn, s.readV r, rfl⟩))
    | seImm x nn =>
      cases answered
      exact s.pcTarget_skipIf _
    | sneImm x nn =>
      cases answered
      exact s.pcTarget_skipIf _
    | seReg x y =>
      cases answered
      exact s.pcTarget_skipIf _
    | sneReg x y =>
      cases answered
      exact s.pcTarget_skipIf _
    | skp x =>
      cases answered
      exact s.pcTarget_skipIf _
    | sknp x =>
      cases answered
      exact s.pcTarget_skipIf _
    | _ => cases jumps

/-- The sum of an address and a byte has room in 16 bits. -/
theorem toNat_address_add_byte (nnn : Addr12) (b : Byte) :
    (nnn.setWidth 16 + b.setWidth 16 : Word).toNat = nnn.toNat + b.toNat := by
  have := nnn.isLt
  have := b.isLt
  rw [BitVec.toNat_add, BitVec.toNat_setWidth_of_le (by decide), BitVec.toNat_setWidth_of_le (by decide)]
  omega

/-! ### The invariant across the events -/

/-- An instruction keeps the invariant where `pc` stands after a fetch. -/
theorem exec_keeps_inv {i : Instr} (inv : s.Inv) (fetched : s.pc.toNat ≤ 0x1000)
    (answered : exec i s = .next t) : t.Inv := by
  have row := accessRow_of_exec answered
  refine ⟨?configValid, ?stackBound, ?returnBound, ?pcBound, ?latchWaits, ?trackedDown, ?memCanonical⟩
  case configValid => exact row.config ▸ inv.configValid
  case stackBound =>
    have bound := inv.stackBound
    rw [row.config]
    obtain same | ⟨a, popped⟩ | ⟨pushed, room⟩ := exec_stack_cases answered
    · rwa [same]
    · rw [popped, List.length_append] at bound
      omega
    · rw [pushed, List.length_append, List.length_singleton]
      omega
  case returnBound =>
    intro a entry
    obtain same | ⟨b, popped⟩ | ⟨pushed, -⟩ := exec_stack_cases answered
    · exact inv.returnBound a (same ▸ entry)
    · exact inv.returnBound a (popped ▸ List.mem_append_left _ entry)
    · rw [pushed, List.mem_append, List.mem_singleton] at entry
      obtain old | rfl := entry
      · exact inv.returnBound a old
      · exact fetched
  case pcBound =>
    obtain same | skipped | returned | ⟨nnn, b, jumped⟩ := exec_pcTarget answered
    · exact same ▸ inv.pcBound
    · rw [skipped, BitVec.toNat_add]
      change (s.pc.toNat + 2) % 65536 ≤ 0x10FE
      omega
    · exact (inv.returnBound _ returned).trans (by decide)
    · have := nnn.isLt
      have := b.isLt
      rw [jumped, toNat_address_add_byte]
      omega
  case latchWaits =>
    by_cases changed : t.awaiting ≠ s.awaiting ∨ t.waitReg ≠ s.waitReg ∨ t.waitLatch ≠ s.waitLatch
    · obtain ⟨x, rfl⟩ := row.wait changed
      cases (exec_ldVxK s x).symm.trans answered
      intro latched
      obtain ⟨notEdge, latched⟩ := ite_ne_left_iff.1 latched
      exact absurd (inv.latchWaits latched.symm).2 notEdge
    · rw [not_or, not_or, not_not, not_not, not_not] at changed
      obtain ⟨awaiting, -, latch⟩ := changed
      rw [awaiting, latch, row.config]
      exact inv.latchWaits
  case trackedDown =>
    simpa only [State.keyDown, row.lastPressed, row.keys] using inv.trackedDown
  case memCanonical =>
    rw [State.unlisted, row.config]
    exact exec_mem_wf inv.memCanonical answered

theorem keyWaitCheck_keeps_inv (inv : s.Inv) : (keyWaitCheck s).Inv := by
  obtain ⟨-, -, eq⟩ | ⟨k, level, -, eq⟩ | ⟨-, -, eq⟩ | ⟨k, -, -, eq⟩ := keyWaitCheck_cases s
  · rwa [eq]
  · rw [eq]
    refine { inv with latchWaits := fun latched => ?_ }
    exact absurd ((inv.latchWaits latched).2) (by simp [level])
  · rwa [eq]
  · rw [eq]
    exact { inv with latchWaits := fun latched => absurd rfl latched }

theorem cycle_keeps_inv {rand : Option Byte} (inv : s.Inv) (answered : cycle rand s = .next t) : t.Inv := by
  obtain rfl | rfl | rfl | ⟨w, d, inside, executed⟩ := cycle_next_cases answered
  · exact inv
  · exact keyWaitCheck_keeps_inv inv
  · exact inv.of_eq rfl rfl rfl rfl rfl rfl rfl rfl
  · have fetched : (s.beginExec rand w d).pc.toNat ≤ 0x1000 := by
      rw [State.beginExec_pc, BitVec.toNat_add]
      change (s.pc.toNat + 2) % 65536 ≤ 0x1000
      omega
    have begun : (s.beginExec rand w d).Inv := { inv with pcBound := fetched.trans (by decide) }
    obtain ⟨i, known⟩ | rfl | rfl := execute_next_cases executed
    · exact exec_keeps_inv begun fetched known
    · exact begun
    · exact begun.of_eq rfl rfl rfl rfl rfl rfl rfl rfl

theorem tick60_keeps_inv (inv : s.Inv) : (tick60 s).Inv := by
  unfold tick60
  split
  · exact inv
  · exact inv.of_eq rfl rfl rfl rfl rfl rfl rfl rfl

theorem keyPress_keeps_inv (k : Key) (inv : s.Inv) : (keyPress k s).Inv := by
  refine { inv with latchWaits := fun latched => ?latch, trackedDown := fun j tracked => ?tracked }
  case latch =>
    change s.latchAfterPress k ≠ none at latched
    unfold State.latchAfterPress at latched
    split at latched
    · next press => exact ⟨press.2.1, press.1⟩
    · exact inv.latchWaits latched
  case tracked =>
    cases tracked
    exact (s.keyDown_setKey k k true).trans (if_pos rfl)

theorem keyRelease_keeps_inv (k : Key) (inv : s.Inv) : (keyRelease k s).Inv := by
  refine { inv with trackedDown := fun j tracked => ?tracked }
  case tracked =>
    change (if s.lastPressed = some k then none else s.lastPressed) = some j at tracked
    obtain ⟨notThis, still⟩ := Option.ite_none_left_eq_some.1 tracked
    have other : j ≠ k := by
      rintro rfl
      exact notThis still
    exact (s.keyDown_setKey k j false).trans ((if_neg other).trans (inv.trackedDown j still))

/-- A fresh machine meets the invariant, whatever the valid configuration. -/
theorem State.fresh_inv {cfg : Config} (valid : cfg.valid = true) : (State.fresh cfg).Inv where
  configValid := valid
  stackBound := Nat.zero_le _
  returnBound _ entry := absurd entry List.not_mem_nil
  pcBound := (by decide : (0x200 : Word).toNat ≤ 0x10FE)
  latchWaits latched := absurd rfl latched
  trackedDown _ tracked := nomatch tracked
  memCanonical := Memory.wf_nil _

theorem State.loaded_inv {image : List Byte} {cfg : Config} (valid : cfg.valid = true)
    (fits : image.length ≤ 3584) : (State.loaded image cfg).Inv :=
  { State.fresh_inv valid with
    memCanonical := Memory.wf_writeAll _ image (Memory.wf_nil _) (by rw [entry, memSize]; omega) }

end Laws

/-- Settles O50: the reset state is the fresh one of a valid configuration. -/
theorem resetMeetsTheInvariant : Obligations.ResetMeetsTheInvariant := State.fresh_inv (by decide)

/-- Settles O51: a step is an event on the state without the event taken, and each event keeps the invariant;
a Reset's machine meets it anew. -/
theorem stepKeepsTheInvariant : Obligations.StepKeepsTheInvariant := by
  intro s t inv answered
  obtain ⟨rest, event⟩ := step_next_cases answered
  have taken : State.Inv { s with schedule := rest } := inv.of_eq rfl rfl rfl rfl rfl rfl rfl rfl
  obtain ⟨rand, cycled⟩ | rfl | ⟨k, rfl⟩ | ⟨k, rfl⟩ | ⟨image, cfg, -, reset⟩ := event
  · exact cycle_keeps_inv taken cycled
  · exact tick60_keeps_inv taken
  · exact keyPress_keeps_inv k taken
  · exact keyRelease_keeps_inv k taken
  · obtain ⟨valid, fits, rfl⟩ := resetMachine_next_iff.1 reset
    exact (State.loaded_inv valid fits).of_eq rfl rfl rfl rfl rfl rfl rfl rfl

end Sys2Proof.Machine
end

section
/-! PROOFS. Control transfer (spec/41_flow.md, and the skips of spec/45_keypad_timers.md): the targets, the
call stack, the skips. -/

namespace Sys2Proof.Machine

section Laws

variable {s : State}

/-- A control transfer to a target that no fetch reaches faults at the next cycle (spec/40_cycle.md R94). -/
theorem cycle_of_target_outside (rand : Option Byte) (ready : s.Ready) (outside : s.pc.toNat ≥ 0xFFF) :
    cycle rand s = .next { s with fault := some ⟨.memoryOutOfBounds, s.pc, none⟩ } :=
  cycle_of_fetch_eq_none rand ready (State.fetch_of_outside (by omega))

/-- A taken or not taken skip, by a condition in `Prop`. -/
theorem State.skipIf_of_iff {c : Bool} {p : Prop} [Decidable p] (iff : c = true ↔ p) :
    s.skipIf c = { s with pc := if p then s.pc + 2 else s.pc } := by
  rw [State.skipIf_eq]
  simp only [iff]
  rfl

theorem State.skipIf_not_of_iff {c : Bool} {p : Prop} [Decidable p] (iff : c = true ↔ p) :
    s.skipIf (!c) = { s with pc := if p then s.pc else s.pc + 2 } := by
  have negated : (!c) = true ↔ ¬ p := by simp [← iff]
  rw [State.skipIf_of_iff negated, ite_not]

/-- A key number is the register's low nibble (spec/45_keypad_timers.md R175). -/
theorem keyOf_eq {b : Byte} {k : Key} (low : k.toNat = b.toNat % 16) : keyOf b = k := by
  refine BitVec.eq_of_toNat_eq ?_
  rw [keyOf, BitVec.extractLsb'_toNat, low, Nat.shiftRight_zero]

theorem State.pressed_of_lastPressed (source : s.config.keySkipSource = .lastPressed) (k : Key) :
    s.pressed k = true ↔ s.lastPressed = some k := by
  rw [State.pressed, source]
  exact beq_iff_eq

theorem State.pressed_of_flags (source : s.config.keySkipSource = .flags) (k : Key) :
    s.pressed k = true ↔ s.keyDown k = true := by
  rw [State.pressed, source]

end Laws

/-- Settles O12: RET by what the stack holds; a popped 0xFFF or above stands in `pc` at the next fetch. -/
theorem returnPopsTheStack : Obligations.ReturnPopsTheStack := by
  refine ⟨fun s rest a entries => exec_ret_of_append entries, fun s empty => exec_ret_of_nil empty,
    fun rand s rest a ready entries outside => ⟨_, exec_ret_of_append entries, ?faults⟩⟩
  case faults => exact cycle_of_target_outside rand ready outside

/-- Settles O13: CALL by whether the stack has room. -/
theorem callPushesTheReturnAddress : Obligations.CallPushesTheReturnAddress := by
  refine ⟨fun s nnn room => ⟨_, exec_call_of_room nnn room, ?target, rfl, rfl⟩,
    fun s nnn full => exec_call_of_full nnn full⟩
  case target => rw [State.setPc_pc, BitVec.toNat_setWidth_of_le (by decide)]

/-- Settles O14: RET pops what CALL has pushed. -/
theorem returnUndoesCall : Obligations.ReturnUndoesCall :=
  fun _ nnn room => ⟨_, exec_call_of_room nnn room, exec_ret_of_append rfl⟩

/-- Settles O15: JP writes `pc`; no fetch reaches 0xFFF. -/
theorem jumpGoesToTheAddress : Obligations.JumpGoesToTheAddress := by
  refine ⟨fun s nnn => ⟨_, exec_jp s nnn, ?target, rfl⟩, fun rand s ready => ⟨_, exec_jp s 0xFFF, ?faults⟩⟩
  case target => rw [State.setPc_pc, BitVec.toNat_setWidth_of_le (by decide)]
  case faults => exact cycle_of_target_outside rand ready (by rw [State.setPc_pc]; decide)

/-- Settles O16: an address and a byte have a sum of 16 bits. -/
theorem jumpOffsetIsNotReduced : Obligations.JumpOffsetIsNotReduced :=
  fun s nnn r => ⟨_, exec_jpOff s nnn r, toNat_address_add_byte nnn (s.readV r), rfl⟩

/-- Settles O17: each skip by its comparison. -/
theorem skipsPassOneInstruction : Obligations.SkipsPassOneInstruction := by
  intro s x y nn
  refine ⟨?seImm, ?sneImm, ?seReg, ?sneReg⟩
  case seImm => rw [exec_seImm, State.skipIf_of_iff beq_iff_eq]
  case sneImm => rw [exec_sneImm, bne, State.skipIf_not_of_iff beq_iff_eq]
  case seReg => rw [exec_seReg, State.skipIf_of_iff beq_iff_eq]
  case sneReg => rw [exec_sneReg, bne, State.skipIf_not_of_iff beq_iff_eq]

/-- Settles O18: both key skips by what the source says of the key in the register's low nibble. -/
theorem keySkipsConsultTheSource : Obligations.KeySkipsConsultTheSource := by
  intro s x k low
  rw [exec_skp, exec_sknp, keyOf_eq low]
  refine ⟨fun source => ?lastPressed, fun source => ?flags⟩
  case lastPressed =>
    have pressed := State.pressed_of_lastPressed source k
    exact ⟨by rw [State.skipIf_of_iff pressed], by rw [State.skipIf_not_of_iff pressed]⟩
  case flags =>
    have pressed := State.pressed_of_flags source k
    exact ⟨by rw [State.skipIf_of_iff pressed], by rw [State.skipIf_not_of_iff pressed]⟩

end Sys2Proof.Machine
end

section
/-! PROOFS. Arithmetic and logic (spec/42_alu.md): the flags as numbers, and the two forms in which a result
and VF are written. -/

namespace Sys2Proof.Machine

/-! ### The flags as numbers -/

theorem toNat_flagByte (p : Prop) [Decidable p] : (flagByte (decide p)).toNat = if p then 1 else 0 := by
  by_cases holds : p <;> simp [flagByte, holds]

theorem toNat_carryOut (a b : Byte) : (carryOut a b).toNat = (a.toNat + b.toNat) / 256 := by
  have := a.isLt
  have := b.isLt
  rw [carryOut, toNat_flagByte]
  split <;> omega

theorem toNat_notBorrow (a b : Byte) : (notBorrow a b).toNat = if a.toNat ≥ b.toNat then 1 else 0 := by
  rw [notBorrow, toNat_flagByte]

theorem toNat_sub_byte (a b : Byte) : (a - b).toNat = (a.toNat + 256 - b.toNat) % 256 := by
  have := a.isLt
  have := b.isLt
  rw [BitVec.toNat_sub]
  omega

theorem toNat_shiftedOutRight (t : Byte) : (shiftedOutRight t).toNat = t.toNat % 2 := by
  rw [shiftedOutRight, BitVec.getLsbD, Nat.testBit_zero, toNat_flagByte]
  split <;> omega

theorem toNat_shiftedOutLeft (t : Byte) : (shiftedOutLeft t).toNat = t.toNat / 128 := by
  have := t.isLt
  rw [shiftedOutLeft, BitVec.getLsbD, Nat.testBit_eq_decide_div_mod_eq, toNat_flagByte]
  split <;> omega

theorem toNat_shiftRight_one (t : Byte) : (t >>> 1).toNat = t.toNat / 2 := by
  rw [BitVec.toNat_ushiftRight, Nat.shiftRight_one]

theorem toNat_shiftLeft_one (t : Byte) : (t <<< 1).toNat = 2 * t.toNat % 256 := by
  rw [BitVec.toNat_shiftLeft, Nat.shiftLeft_eq, pow_one, mul_comm]

section Laws

variable {s : State} {x : RegIdx}

theorem State.readV_writeResultFlag_of_ne (notVf : x ≠ 15) (r flag : Byte) :
    (s.writeResultFlag x r flag).readV x = r := by
  rw [State.readV_writeResultFlag, if_pos rfl]
  exact if_neg notVf

theorem State.readV_writeResultFlag_vf (x : RegIdx) (r flag : Byte) :
    (s.writeResultFlag x r flag).readV 15 = flag :=
  (s.writeV x r).readV_writeV_same 15 flag

/-- OR, AND and XOR: a result with the right bits, written with or without the reset of VF (R133). -/
theorem logicResult_writeLogic {y : RegIdx} {r : Byte} {bit : Bool → Bool → Bool}
    (bits : ∀ k, r.getLsbD k = bit ((s.readV x).getLsbD k) ((s.readV y).getLsbD k)) :
    LogicResult s x y bit (.next (s.writeLogic x r)) := by
  refine ⟨_, rfl, s.writeLogic_onlyV x r, s.writeLogic_sameVBut x r, fun kept k _ => ?result,
    fun quirk => ?reset⟩
  case result =>
    rw [State.readV_writeLogic, if_pos rfl, ← bits k]
    exact congrArg (BitVec.getLsbD · k) (if_neg kept)
  case reset =>
    rw [State.readV_writeLogic]
    exact if_pos ⟨rfl, quirk⟩

end Laws

/-- Settles O20: the sum of the bytes, and the copy; each is one register write. -/
theorem addImmediateAndCopy : Obligations.AddImmediateAndCopy := by
  intro s x y nn
  refine ⟨⟨_, exec_addImm s x nn, ?sum, s.writeV_sameVBut x _, s.writeV_onlyV x _⟩,
    ⟨_, exec_ldReg s x y, s.readV_writeV_same x _, s.writeV_sameVBut x _, s.writeV_onlyV x _⟩⟩
  case sum => rw [State.readV_writeV_same, BitVec.toNat_add]

/-- Settles O21: the operators work bit by bit. -/
theorem logicWorksBitByBit : Obligations.LogicWorksBitByBit := by
  intro s x y
  rw [exec_orReg, exec_andReg, exec_xorReg]
  exact ⟨logicResult_writeLogic fun _ => BitVec.getLsbD_or,
    logicResult_writeLogic fun _ => BitVec.getLsbD_and, logicResult_writeLogic fun _ => BitVec.getLsbD_xor⟩

/-- Settles O22: the sum modulo 256 and its carry. -/
theorem addRegisterKeepsTheCarry : Obligations.AddRegisterKeepsTheCarry := by
  intro s x y
  refine ⟨_, exec_addReg s x y, s.writeResultFlag_onlyV x _ _, s.writeResultFlag_sameVBut x _ _,
    fun notVf => ?sum, ?carry⟩
  case sum => rw [State.readV_writeResultFlag_of_ne notVf, BitVec.toNat_add]
  case carry => rw [State.readV_writeResultFlag_vf, toNat_carryOut]

/-- Settles O23: the difference modulo 256 and the not-borrow, in both orders of the operands. -/
theorem subtractionReportsNoBorrow : Obligations.SubtractionReportsNoBorrow := by
  intro s x y
  refine ⟨⟨_, exec_sub s x y, s.writeResultFlag_onlyV x _ _, s.writeResultFlag_sameVBut x _ _,
    fun notVf => ?sub, ?subFlag⟩, ⟨_, exec_subn s x y, s.writeResultFlag_onlyV x _ _,
    s.writeResultFlag_sameVBut x _ _, fun notVf => ?subn, ?subnFlag⟩⟩
  case sub => rw [State.readV_writeResultFlag_of_ne notVf, toNat_sub_byte]
  case subFlag => rw [State.readV_writeResultFlag_vf, toNat_notBorrow]
  case subn => rw [State.readV_writeResultFlag_of_ne notVf, toNat_sub_byte]
  case subnFlag => rw [State.readV_writeResultFlag_vf, toNat_notBorrow]

/-- Settles O24: the halved or doubled source, and the bit that falls out of it. -/
theorem shiftsMoveByOne : Obligations.ShiftsMoveByOne := by
  intro s x y v source
  have source : v = (s.shiftSource x y).toNat := source
  subst source
  refine ⟨⟨_, exec_shr s x y, s.writeResultFlag_onlyV x _ _, s.writeResultFlag_sameVBut x _ _,
    fun notVf => ?right, ?rightFlag⟩, ⟨_, exec_shl s x y, s.writeResultFlag_onlyV x _ _,
    s.writeResultFlag_sameVBut x _ _, fun notVf => ?left, ?leftFlag⟩⟩
  case right => rw [State.readV_writeResultFlag_of_ne notVf, toNat_shiftRight_one]
  case rightFlag => rw [State.readV_writeResultFlag_vf, toNat_shiftedOutRight]
  case left => rw [State.readV_writeResultFlag_of_ne notVf, toNat_shiftLeft_one]
  case leftFlag => rw [State.readV_writeResultFlag_vf, toNat_shiftedOutLeft]

/-- Settles O25: the byte is the cycle's, under the mask; a mask bit that is 0 clears the bit. -/
theorem randomByteIsMasked : Obligations.RandomByteIsMasked := by
  intro s x nn
  have result : (s.writeV x (s.randomByte &&& nn)).readV x = s.randomByte &&& nn := s.readV_writeV_same x _
  refine ⟨_, s.randomByte, exec_rnd s x nn, fun c named => ?named, result, fun k zero => ?masked,
    s.writeV_sameVBut x _, rfl, rfl⟩
  case named => rw [State.randomByte, named, Option.getD_some]
  case masked =>
    refine (congrArg (BitVec.getLsbD · k) result).trans ?_
    rw [BitVec.getLsbD_and, zero, Bool.and_false]

end Sys2Proof.Machine
end

section
/-! PROOFS. Index register and memory (spec/43_index_memory.md, spec/20_memory.md): the new I, the digits of
LD_B, the ranges of the block transfers, the bytes at reset, the glyphs. -/

namespace Sys2Proof.Machine

section Laws

variable (s : State)

@[simp] theorem State.readByte_setI (a : Word) (q : Nat) : (s.setI a).readByte q = s.readByte q := rfl

@[simp] theorem State.readByte_advanceI (n q : Nat) : (s.advanceI n).readByte q = s.readByte q := by
  rw [State.advanceI_eq, State.readByte_setI]

@[simp] theorem State.readV_advanceI (n : Nat) (r : RegIdx) : (s.advanceI n).readV r = s.readV r := by
  rw [State.advanceI_eq, State.readV_setI]

/-- I after a block transfer of `n` bytes, as a number (R154, R155). -/
theorem State.toNat_advanceI_i {n : Nat} (small : n < 65536) :
    (s.advanceI n).i.toNat = if s.config.qMemIncI then (s.i.toNat + n) % 65536 else s.i.toNat := by
  rw [State.advanceI_eq, State.setI_i]
  split
  · rw [BitVec.toNat_add, BitVec.toNat_ofNat, Nat.mod_eq_of_lt small]
  · rfl

theorem State.storeBytes_sameBytesBut (a : Nat) (bytes : List Byte) :
    SameBytesBut (fun q => a ≤ q ∧ q < a + bytes.length) s (s.storeBytes a bytes) := by
  intro q outside
  rw [State.readByte_storeBytes, dif_neg outside]

theorem State.storeBytes_onlyMem (a : Nat) (bytes : List Byte) : OnlyMem s (s.storeBytes a bytes) := rfl

/-- A stored byte reads back from its place. -/
theorem State.readByte_storeBytes_add (a : Nat) {bytes : List Byte} {k : Nat} (inside : k < bytes.length) :
    (s.storeBytes a bytes).readByte (a + k) = bytes[k] := by
  rw [State.readByte_storeBytes, dif_pos ⟨by omega, by omega⟩]
  simp only [Nat.add_sub_cancel_left]

variable {x : RegIdx}

/-- What LD_MEM_VX stores: V0 to Vx, each at its own offset. -/
theorem State.readByte_storeBytes_readVs (a n : Nat) {r : RegIdx} (inside : r.toNat < n) :
    (s.storeBytes a (s.readVs n)).readByte (a + r.toNat) = s.readV r := by
  have place : r.toNat < (s.readVs n).length := by rwa [State.length_readVs]
  rw [State.readByte_storeBytes_add s a place, State.getElem_readVs, BitVec.ofNat_toNat, BitVec.setWidth_eq]

/-- What LD_VX_MEM loads: in each register up to Vx the byte at its own offset. -/
theorem State.readV_writeVs_map {n : Nat} (room : n ≤ 16) (bytes : Nat → Byte) {r : RegIdx}
    (loaded : r.toNat < n) :
    (s.writeVs 0 ((List.range n).map bytes)).readV r = bytes r.toNat := by
  rw [State.readV_writeVs _ _ _ (by simpa using room), dif_pos (by simpa using loaded)]
  simp

/-- What a fresh machine's byte reads as (R60). -/
theorem State.readByte_fresh (cfg : Config) (a : Nat) : (State.fresh cfg).readByte a =
    if cfg.fontBase ≤ a ∧ a < cfg.fontBase + 80 then fontTable.getD (a - cfg.fontBase) 0 else 0 := rfl

/-- The glyphs stand in the high nibbles of the font bytes (R69). -/
theorem toNat_fontTable_mod_16 : ∀ k, k < 80 → (fontTable.getD k 0).toNat % 16 = 0 := by decide

end Laws

/-- Settles O26: the address, the sum, and the glyph's address. -/
theorem indexRegisterUpdates : Obligations.IndexRegisterUpdates := by
  intro s x nnn
  refine ⟨⟨_, exec_ldI s nnn, ?address, rfl⟩, ⟨_, exec_addI s x, ?sum, rfl⟩, ⟨_, exec_ldF s x, ?glyph, rfl⟩⟩
  case address => rw [State.setI_i, BitVec.toNat_setWidth_of_le (by decide)]
  case sum => rw [State.setI_i, BitVec.toNat_add, BitVec.toNat_setWidth_of_le (by decide)]
  case glyph =>
    rw [State.setI_i, glyphAddr, BitVec.toNat_ofNat, BitVec.extractLsb'_toNat, Nat.shiftRight_zero]
    rfl

/-- Settles O27: the three digits stand at their offsets. -/
theorem decimalDigitsAreStored : Obligations.DecimalDigitsAreStored := by
  intro s x inside
  have bound : (s.readV x).toNat < 256 := (s.readV x).isLt
  have stored {k d : Nat} (place : k < 3) (small : d < 256)
      (digit : (decimalDigits (s.readV x))[k]'place = BitVec.ofNat 8 d) :
      ((s.storeBytes s.i.toNat (decimalDigits (s.readV x))).readByte (s.i.toNat + k)).toNat = d := by
    rw [State.readByte_storeBytes_add s s.i.toNat place, digit, BitVec.toNat_ofNat, Nat.mod_eq_of_lt small]
  refine ⟨_, exec_ldB_of_inside x inside, ?hundreds, ?tens, ?ones,
    s.storeBytes_sameBytesBut s.i.toNat (decimalDigits (s.readV x)), s.storeBytes_onlyMem _ _⟩
  case hundreds => exact stored (k := 0) (by decide) (by omega) rfl
  case tens => exact stored (k := 1) (by decide) (by omega) rfl
  case ones => exact stored (k := 2) (by decide) (by omega) rfl

/-- Settles O28: the registers stand at their offsets, and I moves by the quirk. -/
theorem blockStoreWritesItsRange : Obligations.BlockStoreWritesItsRange := by
  intro s x inside
  have := x.isLt
  refine ⟨_, exec_ldMemVx_of_inside inside, fun r upTo => ?stored, fun q outside => ?kept, ?index, ?frame⟩
  case stored => rw [State.readByte_advanceI, State.readByte_storeBytes_readVs s _ _ (by omega)]
  case kept =>
    rw [State.readByte_advanceI]
    exact s.storeBytes_sameBytesBut _ _ q (by rwa [State.length_readVs])
  case index => exact State.toNat_advanceI_i _ (by omega)
  case frame =>
    rw [State.advanceI_eq]
    rfl

/-- Settles O29: each register up to Vx holds its byte, and I moves by the quirk. -/
theorem blockLoadReadsItsRange : Obligations.BlockLoadReadsItsRange := by
  intro s x inside
  have := x.isLt
  refine ⟨_, exec_ldVxMem_of_inside inside, fun r upTo => ?loaded, fun q beyond => ?kept, ?index, ?frame⟩
  case loaded => rw [State.readV_advanceI, State.readV_writeVs_map s (by omega) _ (by omega)]
  case kept =>
    rw [State.readV_advanceI]
    exact s.writeVs_sameVBut (by simp; omega) q (by simp; omega)
  case index =>
    rw [State.toNat_advanceI_i _ (by omega), State.writeVs_config, State.writeVs_i, Nat.add_assoc]
  case frame =>
    rw [State.advanceI_eq, State.writeVs_onlyV]
    rfl

/-- Settles O30: the load reads back the bytes of the store, whatever moved I in between. -/
theorem blockLoadRestoresBlockStore : Obligations.BlockLoadRestoresBlockStore := by
  intro s t u x inside stored mem config index
  cases (exec_ldMemVx_of_inside inside).symm.trans stored
  have := x.isLt
  refine ⟨_, exec_ldVxMem_of_inside (index ▸ inside), fun r upTo => ?_⟩
  rw [State.readV_advanceI, State.readV_writeVs_map u (by omega) _ (by omega),
    State.readByte_congr mem config, index, State.readByte_advanceI,
    State.readByte_storeBytes_readVs s _ _ (by omega)]

/-- Settles O31: a one-byte write by the law of memory; the bytes of a fresh machine by its definition. -/
theorem byteReadsAsLastWritten : Obligations.ByteReadsAsLastWritten :=
  ⟨fun s a q b => ⟨Memory.read_write _ s.mem a q b, s.storeBytes_onlyMem a [b]⟩, State.readByte_fresh⟩

/-- Settles O55: the glyph's five bytes lie inside the font, and every font byte has its low nibble clear. -/
theorem glyphsStandWhereIPoints : Obligations.GlyphsStandWhereIPoints := by
  intro s x valid font
  obtain ⟨-, below, -⟩ := s.config.valid_iff.1 valid
  refine ⟨_, exec_ldF s x, fun k inGlyph => ?_⟩
  have digit : (s.readV x).toNat % 16 < 16 := Nat.mod_lt _ (by decide)
  have glyph : s.readByte (s.config.fontBase + 5 * ((s.readV x).toNat % 16) + k) =
      fontTable.getD (5 * ((s.readV x).toNat % 16) + k) 0 := by
    rw [font _ (by omega) (by omega), Nat.add_assoc, Nat.add_sub_cancel_left]
  rw [State.readByte_setI, State.setI_i, toNat_glyphAddr _ below, glyph]
  exact ⟨rfl, toNat_fontTable_mod_16 _ (by omega)⟩

end Sys2Proof.Machine
end

section
/-! PROOFS. The sprites (spec/44_display.md R166): which pixels DRW names, what it leaves in the display and
in VF, and what a second draw does. -/

namespace Sys2Proof.Machine

section Laws

variable (s : State) (x y : RegIdx) (n : Nibble)

/-- DRW names exactly the pixels that a set bit of the sprite covers. -/
theorem State.mem_spriteAt (p : Fin 64 × Fin 32) : p ∈ s.spriteAt x y n ↔
    SpriteCovers s ((s.readV x).toNat % 64) ((s.readV y).toNat % 32) n.toNat p.1 p.2 := by
  simp only [State.spriteAt, mem_spritePixels, placePixel_eq_some, SpriteCovers, List.length_map,
    List.length_range, List.getElem_map, List.getElem_range, exists_prop, exists_and_left]

theorem State.nodup_spriteAt : (s.spriteAt x y n).Nodup :=
  nodup_spritePixels _ _ _ _ (by
    have := n.isLt
    rw [List.length_map, List.length_range]
    omega)

/-- DRW toggles the pixels it names and no other. -/
theorem State.drawn_px (px : Fin 64) (py : Fin 32) :
    (s.drawn x y n).display.px px py = (s.display.px px py ^^ decide ((px, py) ∈ s.spriteAt x y n)) :=
  drawPixels_px s.display _ (s.nodup_spriteAt x y n) px py

theorem State.drawn_readV_vf :
    (s.drawn x y n).readV 15 = flagByte (drawPixels s.display (s.spriteAt x y n)).2 :=
  State.readV_writeV_same _ 15 _

/-- VF is set where a named pixel was set. -/
theorem State.drawn_readV_vf_eq_one : (s.drawn x y n).readV 15 = 1 ↔
    ∃ px py, (px, py) ∈ s.spriteAt x y n ∧ s.display.px px py = true := by
  have hit := drawPixels_hit s.display _ (s.nodup_spriteAt x y n)
  rw [Prod.exists] at hit
  rw [State.drawn_readV_vf, ← hit]
  cases (drawPixels s.display (s.spriteAt x y n)).2 <;> decide

theorem flagByte_eq_zero_or_one (c : Bool) : flagByte c = 0 ∨ flagByte c = 1 := by
  cases c
  · exact .inl rfl
  · exact .inr rfl

variable {s} in
/-- The pixels that DRW names depend on I, memory, the configuration and the two registers alone. -/
theorem State.spriteAt_congr {u : State} (index : u.i = s.i) (mem : u.mem = s.mem)
    (config : u.config = s.config) (column : u.readV x = s.readV x) (row : u.readV y = s.readV y) :
    u.spriteAt x y n = s.spriteAt x y n := by
  simp only [State.spriteAt, config, column, row, index, State.readByte_congr mem config]

end Laws

/-- Settles O33: the covered pixels are those DRW names, and it names none twice. -/
theorem drawTogglesCoveredPixels : Obligations.DrawTogglesCoveredPixels := by
  intro s x y n inside
  have named (px : Fin 64) (py : Fin 32) := s.mem_spriteAt x y n (px, py)
  refine ⟨_, exec_drw_of_inBounds x y inside, fun px py covered => ?toggled, fun px py uncovered => ?kept,
    ?isFlag, ?hit, State.writeV_sameVBut _ 15 _, rfl⟩
  case toggled => rw [State.drawn_px, decide_eq_true ((named px py).2 covered), Bool.xor_true]
  case kept => rw [State.drawn_px, decide_eq_false (mt (named px py).1 uncovered), Bool.xor_false]
  case isFlag => exact s.drawn_readV_vf x y n ▸ flagByte_eq_zero_or_one _
  case hit =>
    rw [State.drawn_readV_vf_eq_one]
    simp only [named]

/-- Settles O34: both draws name the same pixels, so the second toggles them back; it finds set what the first
found unset. -/
theorem drawingTwiceRestores : Obligations.DrawingTwiceRestores := by
  intro s t u x y n inside drawn display index mem config column row
  cases (exec_drw_of_inBounds x y inside).symm.trans drawn
  have again : u.spriteAt x y n = s.spriteAt x y n := State.spriteAt_congr x y n index mem config column row
  have insideAgain : SpriteInBounds u n := by rwa [SpriteInBounds, index]
  refine ⟨_, exec_drw_of_inBounds x y insideAgain, Display.ext_px fun px py => ?restored, ?flag⟩
  case restored =>
    rw [State.drawn_px, display, again, State.drawn_px, Bool.xor_assoc, Bool.xor_self, Bool.xor_false]
  case flag =>
    rw [State.drawn_readV_vf_eq_one, again]
    refine exists_congr fun px => exists_congr fun py => ?_
    rw [← s.mem_spriteAt x y n (px, py)]
    refine and_congr_right fun covered => ?_
    rw [display, State.drawn_px, decide_eq_true covered, Bool.xor_true, Bool.not_eq_true']

end Sys2Proof.Machine
end

section
/-! PROOFS. Keypad and timers (spec/45_keypad_timers.md, spec/60_exceptions.md): the key wait from its begin
to its end, the key events, the ticks. -/

namespace Sys2Proof.Machine

section Laws

variable {s : State}

theorem keyPress_keyDown (s : State) (k j : Key) :
    (keyPress k s).keyDown j = if j = k then true else s.keyDown j := s.keyDown_setKey k j true

theorem keyRelease_keyDown (s : State) (k j : Key) :
    (keyRelease k s).keyDown j = if j = k then false else s.keyDown j := s.keyDown_setKey k j false

theorem tick60_fault (s : State) : (tick60 s).fault = s.fault := by
  unfold tick60
  split <;> rfl

theorem soundCrossing_eq (old new : Byte) : soundCrossing old new =
    if old = 0 then (if new = 0 then [] else [.start]) else (if new = 0 then [.stop] else []) := by
  unfold soundCrossing
  split_ifs <;> tauto

theorem tickDown_eq_zero_iff (b : Byte) : tickDown b = 0 ↔ b = 0 ∨ b = 1 := by
  have small := toNat_tickDown b
  rw [← BitVec.toNat_inj, ← BitVec.toNat_inj, ← BitVec.toNat_inj, small]
  change b.toNat - 1 = 0 ↔ b.toNat = 0 ∨ b.toNat = 1
  omega

/-- A tick sends SoundStop exactly where ST was 1 (R215, R216). -/
theorem soundCrossing_tickDown (b : Byte) : soundCrossing b (tickDown b) = if b = 1 then [.stop] else [] := by
  rw [soundCrossing_eq]
  by_cases zero : b = 0
  · subst zero
    rfl
  · simp only [tickDown_eq_zero_iff, zero, false_or, if_false]

end Laws

/-- Settles O35: the begin of the wait is its equation. -/
theorem keyWaitBegins : Obligations.KeyWaitBegins := fun s x => exec_ldVxK s x

/-- Settles O36: after the press the core has a tracked key in level mode, a latched one in edge mode, and the
next cycle ends the wait with it. -/
theorem keyPressEndsTheWait : Obligations.KeyPressEndsTheWait := by
  intro s t x k rand noFault pressable begun
  cases (exec_ldVxK s x).symm.trans begun
  rw [cycle_of_awaiting rand (by exact noFault) rfl]
  cases mode : s.config.keyWaitMode with
  | level =>
    rw [keyWaitCheck_of_level_of_lastPressed_eq_some (k := k) (by exact mode) rfl]
    exact ⟨_, rfl, State.toNat_readV_resolveWait_waitReg _ k, rfl, rfl,
      fun r other => State.resolveWait_sameVBut _ k r other, rfl⟩
  | edge =>
    have up : s.keyDown k = false := pressable.resolve_left (by simp [mode])
    rw [keyWaitCheck_of_edge_of_waitLatch_eq_some (k := k) (by exact mode) ?latched]
    case latched =>
      rw [keyPress_waitLatch, State.latchAfterPress_of_edge_of_awaiting k (by exact mode) rfl]
      exact if_pos ⟨rfl, up⟩
    exact ⟨_, rfl, State.toNat_readV_resolveWait_waitReg _ k, rfl, rfl,
      fun r other => State.resolveWait_sameVBut _ k r other, rfl⟩

/-- Settles O38: ST is set, and the crossing has its four cases. -/
theorem soundTimerNotifiesOnCrossing : Obligations.SoundTimerNotifiesOnCrossing := by
  intro s x
  rw [exec_ldStVx, State.setST, soundCrossing_eq]

/-- Settles O39: the fault gate of the tick, and its two decrements. -/
theorem tickDecrementsBothTimers : Obligations.TickDecrementsBothTimers := by
  intro s
  refine ⟨tick60_of_fault, fun noFault => ⟨toNat_dt_tick60 noFault, toNat_st_tick60 noFault, ?sounds, ?frame⟩⟩
  case sounds =>
    rw [tick60_eq s noFault, State.setST_sounds]
    exact congrArg (s.sounds ++ ·) (soundCrossing_tickDown s.st)
  case frame =>
    rw [tick60_eq s noFault]
    rfl

/-- Settles O40: by induction on the number of ticks; no tick latches a fault. -/
theorem ticksDecrementExactly : Obligations.TicksDecrementExactly := by
  intro n
  induction n with
  | zero => exact fun s _ => ⟨rfl, rfl⟩
  | succ n ih =>
    intro s noFault
    obtain ⟨dt, st⟩ := ih (tick60 s) ((tick60_fault s).trans noFault)
    rw [Function.iterate_succ_apply, dt, st, toNat_dt_tick60 noFault, toNat_st_tick60 noFault]
    omega

/-- Settles O42: the laws of the flag written, and the definitions of both events. -/
theorem keyEventsTrackTheKeypad : Obligations.KeyEventsTrackTheKeypad := by
  intro s k j
  refine ⟨?pressed, rfl, keyPress_waitLatch s k, rfl, ?released, rfl, rfl⟩
  case pressed =>
    rw [keyPress_keyDown]
    by_cases own : j = k <;> simp [own]
  case released =>
    rw [keyRelease_keyDown]
    by_cases own : j = k <;> simp [own]

end Sys2Proof.Machine
end

section
/-! PROOFS. Reset (spec/70_reset_and_hazards.md R240): the fields of the machine it constructs, its memory,
and the configurations it refuses. -/

namespace Sys2Proof.Machine

section Laws

variable (image : List Byte) (cfg : Config)

theorem State.fresh_px (x : Fin 64) (y : Fin 32) : (State.fresh cfg).display.px x y = false :=
  Display.px_blank x y

theorem State.fresh_readV (r : RegIdx) : (State.fresh cfg).readV r = 0 := Vector.getElem_replicate _

theorem State.fresh_keyDown (k : Key) : (State.fresh cfg).keyDown k = false := Vector.getElem_replicate _

/-- Memory after a load: the image at 0x200, below and above it the bytes of a fresh machine. -/
theorem State.readByte_loaded (a : Nat) : (State.loaded image cfg).readByte a =
    if h : 0x200 ≤ a ∧ a < 0x200 + image.length then image[a - 0x200]'(by omega)
    else if cfg.fontBase ≤ a ∧ a < cfg.fontBase + 80 then fontTable.getD (a - cfg.fontBase) 0 else 0 :=
  State.readByte_storeBytes _ 0x200 a image

theorem resetMachine_of_invalid (s : State) (invalid : cfg.valid = false) :
    resetMachine image cfg s = .refused .invalidConfig := if_pos invalid

end Laws

/-- Settles O52: the fields are those of the fresh machine, the bytes those of the load; the reset state is
the fresh one of its own configuration, with the model's own fields as they were. -/
theorem resetBuildsTheFreshState : Obligations.ResetBuildsTheFreshState := by
  intro image cfg s valid fits
  refine ⟨⟨_, resetMachine_of_length_le s valid fits, rfl, rfl, rfl, rfl, State.fresh_px cfg,
    State.fresh_readV cfg, rfl, State.fresh_keyDown cfg, rfl, rfl, rfl, rfl, rfl, rfl, rfl, rfl,
    State.readByte_loaded image cfg⟩, ?resetState⟩
  case resetState => exact resetMachine_of_length_le State.reset (by decide) (by decide)

/-- Settles O54: a configuration that breaks one of the three conditions is not valid. -/
theorem invalidConfigurationIsRefused : Obligations.InvalidConfigurationIsRefused := by
  intro image cfg s broken
  exact resetMachine_of_invalid image cfg s (Bool.eq_false_iff.2 (mt cfg.valid_iff.1 broken))

end Sys2Proof.Machine
end

section
/-! PROOFS. The step call (spec/70_reset_and_hazards.md R251, R252): the split of a budget, and the ticks that
a blocked call still sends. -/

namespace Sys2Proof.Machine

/-! ### A count and its remainder -/

theorem toNat_floor_add_remainder {q : Rat} (nonneg : 0 ≤ q) : (q.floor.toNat : Rat) + (q - q.floor) = q := by
  have cast : ((q.floor.toNat : ℤ) : Rat) = q.floor := by
    rw [Int.toNat_of_nonneg (Rat.le_floor_iff.2 nonneg)]
  rw [Int.cast_natCast] at cast
  rw [cast, add_sub_cancel]

theorem remainder_nonneg (q : Rat) : 0 ≤ q - q.floor := sub_nonneg.2 (Rat.floor_le q)

theorem remainder_lt_one (q : Rat) : q - q.floor < 1 := sub_lt_comm.1 Rat.lt_floor

/-- Settles O56: each count is a floor and its accumulator the remainder; sixty and a remainder below one have
the floor 60. -/
theorem budgetLosesNoTime : Obligations.BudgetLosesNoTime := by
  intro s budget budgetNonneg cpuNonneg _ tmrNonneg tmrBelow hzPos r
  have cpu : 0 ≤ s.cpuAcc + budget * s.config.cpuHz :=
    add_nonneg cpuNonneg (mul_nonneg budgetNonneg hzPos.le)
  have tmr : 0 ≤ s.tmrAcc + budget * 60 := add_nonneg tmrNonneg (mul_nonneg budgetNonneg (by norm_num))
  refine ⟨toNat_floor_add_remainder cpu, toNat_floor_add_remainder tmr, remainder_nonneg _,
    remainder_lt_one _, remainder_nonneg _, remainder_lt_one _, ?second, rfl⟩
  case second =>
    rintro rfl
    have floor_eq : (s.tmrAcc + 1 * 60).floor = 60 := by
      refine le_antisymm (Int.lt_add_one_iff.1 (Rat.floor_lt_iff.2 ?_)) (Rat.le_floor_iff.2 ?_)
      · norm_num
        linarith
      · norm_num
        exact tmrNonneg
    exact congrArg Int.toNat floor_eq

/-! ### A call that awaits a key -/

/-- A blocked call drops its cycles and sends its ticks. -/
theorem runCall_blocked (order : List SeqEvent) (s : State) :
    runCall order true s = .ended .keyWait (tick60^[order.count .tick] s) := by
  induction order generalizing s with
  | nil => rfl
  | cons e rest ih =>
    cases e with
    | cycle => rw [runCall, ih, List.count_cons_of_ne (by decide)]
    | tick => rw [runCall, ih, List.count_cons_self, Function.iterate_succ_apply]

/-- The ticks before a call's first cycle are sent, blocked or not. -/
theorem runCall_replicate_tick (before : Nat) (rest : List SeqEvent) (blocked : Bool) (s : State) :
    runCall (List.replicate before .tick ++ rest) blocked s = runCall rest blocked (tick60^[before] s) := by
  induction before generalizing s with
  | zero => rfl
  | succ before ih => rw [List.replicate_succ, List.cons_append, runCall, ih, Function.iterate_succ_apply]

/-- Settles O57: the cycle that leaves a key awaited blocks the rest of the call. -/
theorem blockedCallStillTicks : Obligations.BlockedCallStillTicks := by
  refine ⟨fun before rest s s' cycled noFault waiting => ?_, runCall_blocked⟩
  rw [runCall_replicate_tick, runCall, cycled]
  simp only [noFault]
  rw [waiting, runCall_blocked]

end Sys2Proof.Machine
end
